-- ==== Sys2Proof/Word.lean ====
section
/-! DEFINITION. The words of the block: the widths of R6, R23 and R71. -/

namespace Sys2Proof

/-- One machine word, `W = 32` bits (R6, R7): `OUTF`, `DEADLINE`, `CNT` and the command argument. -/
abbrev Word := BitVec 32

/-- One waveform sample and one carrier register, `SAMPLE_WIDTH = 16` bits (R6, R23). -/
abbrev Sample := BitVec 16

/-- The table index `IDX`, `IDX_WIDTH = 7` bits (R6, R25). -/
abbrev Index := BitVec 7

/-- The handler sequencer `HSTEP`, 3 bits (R30). -/
abbrev HandlerStep := BitVec 3

/-- A command word `cmd[34:0]` (R70, R71). -/
abbrev CmdWord := BitVec 35

end Sys2Proof
end

