-- ==== Sys2Proof/Config.lean ====
section
/-! DEFINITION. The configuration record of R6, and what the spec leaves open: the free values and the OPEN
parameters, each a constant with no body. -/

namespace Sys2Proof

/-- How the deadline comparator decides (R6, R102). -/
inductive MatchMode where
  | reached
  | equal
  deriving DecidableEq, Repr

/-- The polarity of the PWM output (R6, R36). -/
inductive Polarity where
  | activeHigh
  | activeLow
  deriving DecidableEq, Repr

/-- The agents whose steps interleave (R13 (1)). -/
inductive Agent where
  | host
  | handler
  | clock
  | reset
  deriving DecidableEq, Repr, Inhabited

/-- The configuration `cfg` (R6). `W` and `SAMPLE_COUNT` are fields only so that R7 can refuse another value: the
types of the registers and the formulas of R10 and R94 have 32 and 100 in them (log entry 8).
`F_MAX` and `IDX_WIDTH` are derived, the OPEN parameters are the constants below. -/
structure Cfg where
  /-- `SAMPLE_COUNT` -/
  sampleCount : Nat
  /-- `W` -/
  wordWidth : Nat
  /-- `CLOCK_FREQUENCY`, in Hz -/
  clockFrequency : Nat
  /-- `CARRIER_PERIOD` -/
  carrierPeriod : Nat
  /-- `TABLE`, the ROM image (R51) -/
  table : Vector Sample 100
  /-- `DEFAULT_FREQUENCY` -/
  defaultFrequency : Word
  /-- `MATCH_MODE` -/
  matchMode : MatchMode
  /-- `POLARITY` -/
  polarity : Polarity
  deriving DecidableEq, Repr

/-- The constraints of R7, in the order R7 lists them; the record of a `BAD_CFG` refusal (R110). -/
inductive CfgConstraint where
  /-- `SAMPLE_COUNT = 100` -/
  | sampleCount
  /-- `W = 32` -/
  | wordWidth
  /-- `SAMPLE_COUNT <= CLOCK_FREQUENCY < 2^32` -/
  | clockFrequency
  /-- `2 <= CARRIER_PERIOD <= 2^16` -/
  | carrierPeriod
  /-- every sample is below `CARRIER_PERIOD` -/
  | tableRange
  /-- the least sample is 0 -/
  | tableMinimum
  /-- `TABLE[0] = 0` -/
  | tableStart
  /-- `1 <= DEFAULT_FREQUENCY <= F_MAX` -/
  | defaultFrequency
  deriving DecidableEq, Repr

/-- How many free values of each kind have been taken so far (log entries 4, 5, 6). -/
structure Draws where
  agents   : Nat
  commands : Nat
  resets   : Nat
  deriving DecidableEq, Repr

/-- Free value: the agent that goes next once `schedule` is empty (R106 fixes none). Log entry 5. -/
opaque Config.freeAgent : Nat → Agent

/-- Free value: what the host presents once `commands` is empty, `none` for an instant at which it is silent
(R106, R144). Log entry 6. -/
opaque Config.freeCommand : Nat → Option CmdWord

/-- Free value: `CNT` after the n-th `RESET` (R40, R140). Log entry 4. -/
opaque Config.freeResetCnt : Nat → Word

/-- Free value: `DEADLINE` after the n-th `RESET` (R40, R140). Log entry 4. -/
opaque Config.freeResetDeadline : Nat → Word

/-- OPEN parameter `TICK_IRQ`; no rule reads it (R6, R76, R115). Log entry 11. -/
opaque Config.tickIrqIdentity : Nat

/-- OPEN parameter `TICK_PRIORITY`; no rule reads it (R6, R115). Log entry 11. -/
opaque Config.tickPriority : Nat

/-- OPEN parameter `CMPREG_ADDR`; no rule reads it (R6, R62). Log entry 11. -/
opaque Config.cmpregAddr : Nat

/-- OPEN parameter `TIMER_BASE`; no rule reads it (R6, R62). Log entry 11. -/
opaque Config.timerBase : Nat

end Sys2Proof
end

