-- ==== Sys2Proof/Machine/Params.lean ====
section
/-! DEFINITION. The parameters the rules compute with: the default configuration and its ROM image, the checks of
R7, the table read, the frequency bound and `TickPeriod`. -/

namespace Sys2Proof

/-- The default ROM image as numbers (R53), ten elements to a line. -/
def defaultImage : List Nat :=
  [0, 0, 1, 2, 4, 6, 9, 12, 16, 20] ++
  [24, 29, 35, 40, 46, 53, 59, 66, 73, 81] ++
  [88, 96, 104, 112, 119, 128, 136, 143, 151, 159] ++
  [167, 174, 182, 189, 196, 202, 209, 215, 220, 226] ++
  [231, 235, 239, 243, 246, 249, 251, 253, 254, 255] ++
  [255, 255, 254, 253, 251, 249, 246, 243, 239, 235] ++
  [231, 226, 220, 215, 209, 202, 196, 189, 182, 174] ++
  [167, 159, 151, 143, 136, 128, 119, 112, 104, 96] ++
  [88, 81, 73, 66, 59, 53, 46, 40, 35, 29] ++
  [24, 20, 16, 12, 9, 6, 4, 2, 1, 0]

/-- The default `TABLE` (R53). -/
def defaultTable : Vector Sample 100 := ⟨(defaultImage.map (BitVec.ofNat 16)).toArray, rfl⟩

/-- The default column of R6. Log entry 2. -/
def Cfg.default : Cfg where
  sampleCount := 100
  wordWidth := 32
  clockFrequency := 48000000
  carrierPeriod := 256
  table := defaultTable
  defaultFrequency := 100
  matchMode := .reached
  polarity := .activeHigh

/-- The read primitive `sample(i)` of the table ROM (R51): no value for an index of 100 or more. -/
def Cfg.sample (c : Cfg) (i : Nat) : Option Sample := c.table[i]?

/-- `F_MAX = floor(CLOCK_FREQUENCY / SAMPLE_COUNT)` (R6, R10). -/
def Cfg.fMax (c : Cfg) : Nat := c.clockFrequency / 100

/-- `f` is legal: `1 <= f <= F_MAX` (R10). -/
def Cfg.legalFrequency (c : Cfg) (f : Word) : Prop := 1 ≤ f.toNat ∧ f.toNat ≤ c.fMax

/-- `TickPeriod(f)`, two truncating divisions in the order of R10, by `f` and then by 100; not defined for
`f = 0`. -/
def Cfg.tickPeriod (c : Cfg) (f : Word) : Option Word :=
  if f = 0 then none else some (BitVec.ofNat 32 (c.clockFrequency / f.toNat / 100))

/-- Whether `c` meets one constraint of R7. -/
def Cfg.meets (c : Cfg) : CfgConstraint → Bool
  | .sampleCount => c.sampleCount == 100
  | .wordWidth => c.wordWidth == 32
  | .clockFrequency => decide (100 ≤ c.clockFrequency ∧ c.clockFrequency < 2 ^ 32)
  | .carrierPeriod => decide (2 ≤ c.carrierPeriod ∧ c.carrierPeriod ≤ 2 ^ 16)
  | .tableRange => c.table.toList.all fun v => decide (v.toNat < c.carrierPeriod)
  | .tableMinimum => c.table.toList.any fun v => v == 0
  | .tableStart => c.table.toList.head? == some 0
  | .defaultFrequency => decide (1 ≤ c.defaultFrequency.toNat ∧ c.defaultFrequency.toNat ≤ c.fMax)

/-- The constraints in the order of R7. -/
def Cfg.constraints : List CfgConstraint :=
  [.sampleCount, .wordWidth, .clockFrequency, .carrierPeriod, .tableRange, .tableMinimum, .tableStart,
    .defaultFrequency]

/-- The first constraint of R7 that `c` breaks, if any: the record of `BAD_CFG` (R7, R110). Log entry 21. -/
def Cfg.violation (c : Cfg) : Option CfgConstraint := Cfg.constraints.find? fun k => !c.meets k

end Sys2Proof
end

