-- ==== Sys2Proof/Syntax.lean ====
section
/-! DEFINITION. The twelve steps of R12, one constructor per row of the opcode table. -/

namespace Sys2Proof

/-- The steps of the block (R12). The operand of `start` and `setf` is the argument `cmd[31:0]`, used as it
stands (R72). -/
inductive Instr where
  /-- `NOP` (R80) -/
  | nop
  /-- `CSETUP` (R81) -/
  | csetup
  /-- `START f` (R82) -/
  | start (f : Word)
  /-- `STOP` (R83) -/
  | stop
  /-- `SETF f` (R84) -/
  | setf (f : Word)
  /-- `TENTER`, handler entry (R90) -/
  | tenter
  /-- `T1DL`, next deadline (R91) -/
  | t1dl
  /-- `T2CLR`, clear pending (R92) -/
  | t2clr
  /-- `T3WR`, write the sample (R93) -/
  | t3wr
  /-- `T4ADV`, advance the index and return (R94) -/
  | t4adv
  /-- `CLK`, one active clock edge (R100) -/
  | clk
  /-- `RESET`, assertion of `rst` (R140) -/
  | reset
  deriving DecidableEq, Repr

end Sys2Proof
end

