-- ==== Sys2Proof/Machine/State.lean ====
section
/-! DEFINITION. The state of the block: the thirteen registers of R23, the configuration the steps read, and the
environment's side of the command port and of the schedule as plain data; the reasons a step can stop; the state after
reset. -/

namespace Sys2Proof.Machine

/-- The state. The first thirteen fields are the registers of R23 in R23's order; the last four are the model's own
(log entries 1, 5, 6). -/
structure State where
  /-- `RUN` (R24) -/
  run : Bool
  /-- `IDX` (R25) -/
  idx : Index
  /-- `OUTF` (R26) -/
  outf : Word
  /-- `DEADLINE` (R27) -/
  deadline : Word
  /-- `CNT` (R28) -/
  cnt : Word
  /-- `PEND` (R29) -/
  pend : Bool
  /-- `HSTEP` (R30) -/
  hstep : HandlerStep
  /-- `CEN` (R31) -/
  cen : Bool
  /-- `CCNT` (R32) -/
  ccnt : Sample
  /-- `CMPREG` (R33) -/
  cmpreg : Sample
  /-- `CMPACT` (R34) -/
  cmpact : Sample
  /-- `OEN` (R35) -/
  oen : Bool
  /-- `POL` (R36) -/
  pol : Bool
  /-- the parameter `cfg` (R6); no step writes it -/
  cfg : Cfg
  /-- the words the host still has to issue; the first stands on `cmd[34:0]` (R70) -/
  commands : List CmdWord
  /-- the agents whose turns come next (R106) -/
  schedule : List Agent
  /-- how many free values have been taken -/
  drawn : Draws
  deriving DecidableEq, Repr

/-- The fault causes of R110. A fault is safe: nothing is claimed of what the chip does after it (R112). -/
inductive Fault where
  /-- `FREQ_ZERO`, cause 3: raised by `START 0` and `SETF 0`, and by `T1DL` with `OUTF = 0`, which no run reaches;
  records the step. Safe. -/
  | freqZero (step : Instr)
  /-- `FREQ_RANGE`, cause 4: raised by `START f` and `SETF f` with `f > F_MAX`, and by `T1DL` with `OUTF > F_MAX`, which
  no run reaches (log entry 9); records the step and the frequency. Safe. -/
  | freqRange (step : Instr) (f : Word)
  deriving DecidableEq, Repr

/-- The refusal causes of R110, the model's own `notEnabled` and the host's `notModelled`. A refusal is safe: the
model has no step there. -/
inductive Refusal where
  /-- An instruction with no meaning yet; no arm of this model raises it. Safe. -/
  | notModelled (mnemonic : String)
  /-- `ILLEGAL_COMMAND`, cause 1: raised by `step` when a word with a reserved op is issued (R74); records the word.
  Safe. -/
  | illegalCommand (word : CmdWord)
  /-- `SEQUENCE`, cause 2: raised by `START` with `RUN = 1` or `CEN = 0` and by `CSETUP` with `RUN = 1`; records the
  command, `RUN` and `CEN`. Safe. -/
  | sequence (command : Instr) (run cen : Bool)
  /-- `INDEX_RANGE`, cause 5: raised by `T3WR` and `T4ADV` with `IDX >= 100`, which no run reaches; records `IDX`.
  Safe. -/
  | indexRange (idx : Index)
  /-- `BAD_CFG`, cause 6: raised by `step`, before anything else, when `cfg` breaks R7; records the constraint.
  Safe. -/
  | badCfg (violated : CfgConstraint)
  /-- Raised by `exec` when it is asked for a step that is not enabled in the state (R70, R76): the spec has no such
  step (R106). `step` never asks for one. Safe. Log entry 7. -/
  | notEnabled (step : Instr)
  deriving DecidableEq, Repr

/-- What one step answers (R9). -/
abbrev Result := Host.Outcome State Fault Refusal

/-- The machine right after reset (R40, R141), with the default `cfg` of R6 (log entry 2). `DEADLINE` and `CNT` are
unspecified there; 0 is this model's own choice (DESIGN CHOICE, log entry 3), on which no statement rests. -/
def State.reset : State where
  run := false
  idx := 0
  outf := Cfg.default.defaultFrequency
  deadline := 0
  cnt := 0
  pend := false
  hstep := 0
  cen := false
  ccnt := 0
  cmpreg := 0
  cmpact := 0
  oen := false
  pol := false
  cfg := Cfg.default
  commands := []
  schedule := []
  drawn := { agents := 0, commands := 0, resets := 0 }

end Sys2Proof.Machine
end

