-- ==== Sys2Proof/Machine/Operands.lean ====
section
/-! DEFINITION. The one operand form of the block, the frequency argument of `START` and `SETF` (R72, R85), and the
table pointer `IDX` (R25, R94). -/

namespace Sys2Proof.Machine

/-- The check of the frequency `f` in the step `i`, then the rest of the step with `TickPeriod(f)`: `FREQ_ZERO` first,
then `FREQ_RANGE` (R113). For `START f` and `SETF f` it is the boundary check of R85; for `T1DL` with `f` from `OUTF` it
never fails in a run (R39 I4). -/
def withLegalFrequency (i : Instr) (f : Word) (s : State) (k : Word → Result) : Result :=
  match s.cfg.tickPeriod f with
  | none => .fault (.freqZero i)
  | some period => if s.cfg.fMax < f.toNat then .fault (.freqRange i f) else k period

/-- The index after one advance: an equality test against 100 on the incremented value (R94). -/
def nextIndex (i : Index) : Index := if i.toNat + 1 = 100 then 0 else i + 1

end Sys2Proof.Machine
end

