-- ==== Sys2Proof/WellFormed.lean ====
section
/-! DEFINITION. Which steps are command words. Every operand is a 32-bit word by its type, and all `2^32`
arguments are decodable (R72), so the one check a term needs is that it is a command at all. The constraints on
`cfg` (R7) are checked in `Machine/Params.lean`. -/

namespace Sys2Proof

/-- The step is one of the five commands the port carries (R73, R75); the other seven have no encoding and nothing
outside the block selects them (R76). Log entry 22. -/
def Instr.wellFormed : Instr → Bool
  | .nop => true
  | .csetup => true
  | .start _ => true
  | .stop => true
  | .setf _ => true
  | .tenter => false
  | .t1dl => false
  | .t2clr => false
  | .t3wr => false
  | .t4adv => false
  | .clk => false
  | .reset => false

/-- The step is one of the five micro-steps of the tick handler (R12, R95). -/
def Instr.inHandler : Instr → Bool
  | .nop => false
  | .csetup => false
  | .start _ => false
  | .stop => false
  | .setf _ => false
  | .tenter => true
  | .t1dl => true
  | .t2clr => true
  | .t3wr => true
  | .t4adv => true
  | .clk => false
  | .reset => false

end Sys2Proof
end

