-- ==== Sys2Proof/Decode.lean ====
section
/-! DEFINITION. The decoder of command words and its encoder (R71 to R77). -/

namespace Sys2Proof

/-- `op = cmd[34:32]` (R71). -/
def opField (w : CmdWord) : BitVec 3 := w.extractLsb' 32 3

/-- `arg = cmd[31:0]`, used as it stands (R72). -/
def argField (w : CmdWord) : Word := w.extractLsb' 0 32

/-- The command with the given fields; `none` is `illegal` (R73, R74). Format C0 does not read the argument. -/
def commandOf (op : BitVec 3) (arg : Word) : Option Instr :=
  match op.toNat with
  | 0 => some .nop
  | 1 => some .csetup
  | 2 => some (.start arg)
  | 3 => some .stop
  | 4 => some (.setf arg)
  | _ => none

/-- `decode(cmd)`, total on all 35-bit words (R75). -/
def decode (w : CmdWord) : Option Instr := commandOf (opField w) (argField w)

/-- A command word from its two fields: `op ++ arg` (R71). -/
def cmdWord (op : BitVec 3) (arg : Word) : CmdWord := op ++ arg

/-- `encode`, with the ignored bits of format C0 as zero (R75); the seven events have no encoding (R76). -/
def encode : Instr → Option CmdWord
  | .nop => some (cmdWord 0 0)
  | .csetup => some (cmdWord 1 0)
  | .start f => some (cmdWord 2 f)
  | .stop => some (cmdWord 3 0)
  | .setf f => some (cmdWord 4 f)
  | .tenter => none
  | .t1dl => none
  | .t2clr => none
  | .t3wr => none
  | .t4adv => none
  | .clk => none
  | .reset => none

/-- The command word that the opcode table numbers `w` on `nbits` bits: bits from `nbits` on count as 0, and a
number of `2^35` or more is no command word, since the port has 35 wires (R70, R77). Log entry 13. -/
def tableWord (nbits w : Nat) : Option CmdWord :=
  if w % 2 ^ nbits < 2 ^ 35 then some (BitVec.ofNat 35 (w % 2 ^ nbits)) else none

/-- What the decoder reads from an opcode-table word. -/
def decodeTableWord (nbits w : Nat) : Option Instr :=
  match tableWord nbits w with
  | some c => decode c
  | none => none

end Sys2Proof
end

