-- ==== Sys2Proof/Machine/Output.lean ====
section
/-! DEFINITION. The lines the block drives, each a function of state (R37, R70, R114). -/

namespace Sys2Proof.Machine

/-- The pin `pwm_out`: driven to a level, or not driven by the block, and then no level may be assumed of it (R37,
U8). Log entry 10. -/
inductive Pin where
  | driven (level : Bool)
  | undriven
  deriving DecidableEq, Repr

/-- `cmd_ready = 1` exactly when `HSTEP = 0` (R70). -/
def cmdReady (s : State) : Bool := s.hstep == 0

/-- `tick_irq = RUN AND PEND` (R37, R114). -/
def tickIrq (s : State) : Bool := s.run && s.pend

/-- `active = (CCNT < CMPACT)`, unsigned (R37). -/
def carrierActive (s : State) : Bool := decide (s.ccnt.toNat < s.cmpact.toNat)

/-- `pwm_out` (R37): `active` for `POL = 0`, its negation for `POL = 1`, undriven while `OEN = 0`. -/
def pwmOut (s : State) : Pin :=
  if s.oen then .driven (if s.pol then !carrierActive s else carrierActive s) else .undriven

end Sys2Proof.Machine
end

