-- ==== Sys2Proof/Machine/Ops.lean ====
section
/-! DEFINITION. The shared operations: the enabling conditions, entering and leaving the tick handler, whose turn is
next, what the host presents, and the choice of the step a turn performs. -/

namespace Sys2Proof.Machine

/-- The enabling condition of every step (R70, R76). -/
def enabled (i : Instr) (s : State) : Bool :=
  match i with
  | .nop => cmdReady s
  | .csetup => cmdReady s
  | .start _ => cmdReady s
  | .stop => cmdReady s
  | .setf _ => cmdReady s
  | .tenter => tickIrq s && s.hstep == 0
  | .t1dl => s.hstep == 1
  | .t2clr => s.hstep == 2
  | .t3wr => s.hstep == 3
  | .t4adv => s.hstep == 4
  | .clk => true
  | .reset => true

/-- The step `i` with its effect `k`, where it is enabled; elsewhere there is no such step (R106). Log entry 7. -/
def whenEnabled (i : Instr) (s : State) (k : Result) : Result :=
  if enabled i s then k else .refused (.notEnabled i)

/-- `HSTEP <- k`. -/
def setHstep (k : HandlerStep) (s : State) : State := { s with hstep := k }

/-- Entry into the tick handler, the block's one exception entry (R90, R117): `HSTEP` from 0 to 1 and nothing else;
nothing is saved, and there is no address to go to. -/
def enterHandler (s : State) : State := setHstep 1 s

/-- Return from the tick handler (R94, R117): `HSTEP <- 0`; it restores nothing. -/
def returnFromHandler (s : State) : State := setHstep 0 s

/-- The carrier setup of R81: the carrier runs from 0 with zero duty, the output is enabled, the polarity is that of
`cfg`. -/
def setupCarrier (s : State) : State :=
  { s with
    cen := true
    ccnt := 0
    cmpreg := 0
    cmpact := 0
    oen := true
    pol := decide (s.cfg.polarity = .activeLow) }

/-- `cfg` is checked before any step (R7): the refusal, or else `k`. -/
def withGoodCfg (s : State) (k : Result) : Result :=
  match s.cfg.violation with
  | some c => .refused (.badCfg c)
  | none => k

/-- Whose turn it is, and the state with that turn taken off the schedule. Once the schedule is empty the agent is a
free value: the spec fixes no order (R106, R116). Log entry 5. -/
def takeAgent (s : State) : Agent × State :=
  match s.schedule with
  | a :: rest => (a, { s with schedule := rest })
  | [] => (Config.freeAgent s.drawn.agents, { s with drawn := { s.drawn with agents := s.drawn.agents + 1 } })

/-- The word on `cmd[34:0]`, or `none` while `cmd_valid = 0` (R70). Once `commands` is empty it is a free value.
Log entry 6. -/
def presented (s : State) : Option CmdWord :=
  match s.commands with
  | w :: _ => some w
  | [] => Config.freeCommand s.drawn.commands

/-- `cmd_valid` (R70). -/
def cmdValid (s : State) : Bool := (presented s).isSome

/-- The host's side after the block has taken the presented word, or after a silent instant of the host. -/
def releasePort (s : State) : State :=
  match s.commands with
  | _ :: rest => { s with commands := rest }
  | [] => { s with drawn := { s.drawn with commands := s.drawn.commands + 1 } }

/-- What a turn comes to: a step, nothing (the agent has no enabled step), or a word that spells no command. -/
inductive Turn where
  | run (i : Instr) (s : State)
  | idle (s : State)
  | illegal (word : CmdWord)
  deriving DecidableEq, Repr

/-- Issuing a command word: the command it spells, with the word off the port, or nothing it spells (R74, R75). -/
def issue (w : CmdWord) (s : State) : Turn :=
  match decode w with
  | some i => .run i (releasePort s)
  | none => .illegal w

/-- The host's turn (R70): with `cmd_ready = 1` the presented word is issued; with `cmd_ready = 0` it is held, not
lost and not executed. -/
def hostTurn (s : State) : Turn :=
  if cmdReady s then
    match presented s with
    | none => .idle (releasePort s)
    | some w => issue w s
  else .idle s

/-- The handler micro-step that is enabled, if any (R76). -/
def handlerInstr (s : State) : Option Instr :=
  if enabled .tenter s then some .tenter
  else if enabled .t1dl s then some .t1dl
  else if enabled .t2clr s then some .t2clr
  else if enabled .t3wr s then some .t3wr
  else if enabled .t4adv s then some .t4adv
  else none

/-- The handler's turn: its enabled micro-step, or nothing. -/
def handlerTurn (s : State) : Turn :=
  match handlerInstr s with
  | some i => .run i s
  | none => .idle s

/-- The turn of an agent (R12, R13 (1)). -/
def agentTurn (a : Agent) (s : State) : Turn :=
  match a with
  | .host => hostTurn s
  | .handler => handlerTurn s
  | .clock => .run .clk s
  | .reset => .run .reset s

/-- The next turn of the machine. -/
def nextTurn (s : State) : Turn := agentTurn (takeAgent s).1 (takeAgent s).2

/-- `s` with the word `w` on the command port, accepted by it (`HSTEP = 0`, R70), and the host's turn next.
Log entry 12. -/
def placeCommand (w : CmdWord) (s : State) : State :=
  { s with hstep := 0, commands := w :: s.commands, schedule := .host :: s.schedule }

/-- `placeCommand` for an opcode-table word; a number that is no command word places nothing. Log entry 13. -/
def placeTableWord (nbits w : Nat) (s : State) : State :=
  match tableWord nbits w with
  | some c => placeCommand c s
  | none => s

/-- The number R110 gives the cause of a fault. -/
def Fault.causeNumber : Fault → Nat
  | .freqZero _ => 3
  | .freqRange _ _ => 4

/-- The number R110 gives the cause of a refusal; the model's own two have none. -/
def Refusal.causeNumber : Refusal → Option Nat
  | .illegalCommand _ => some 1
  | .sequence _ _ _ => some 2
  | .indexRange _ => some 5
  | .badCfg _ => some 6
  | _ => none

end Sys2Proof.Machine
end

