-- ==== Sys2Proof/Machine/Commands.lean ====
section
/-! DEFINITION. The host commands (R80 to R85). -/

namespace Sys2Proof.Machine

/-- `NOP` (R80). -/
def execNop (s : State) : Result := whenEnabled .nop s (.next s)

/-- `CSETUP` (R81): refused while `RUN = 1`. -/
def execCsetup (s : State) : Result :=
  whenEnabled .csetup s <|
    if s.run then .refused (.sequence .csetup s.run s.cen) else .next (setupCarrier s)

/-- `START f` (R82), with the checks in R82's order. -/
def execStart (f : Word) (s : State) : Result :=
  whenEnabled (.start f) s <|
    if s.run then .refused (.sequence (.start f) s.run s.cen)
    else if !s.cen then .refused (.sequence (.start f) s.run s.cen)
    else withLegalFrequency (.start f) f s fun period =>
      .next { s with outf := f, idx := 0, deadline := s.cnt + period, pend := false, run := true }

/-- `STOP` (R83): `PEND` is not cleared and nothing else is written. -/
def execStop (s : State) : Result := whenEnabled .stop s (.next { s with run := false })

/-- `SETF f` (R84): the running deadline is not touched. -/
def execSetf (f : Word) (s : State) : Result :=
  whenEnabled (.setf f) s <| withLegalFrequency (.setf f) f s fun _ => .next { s with outf := f }

end Sys2Proof.Machine
end

