-- ==== Sys2Proof/Machine/Flags.lean ====
section
/-! DEFINITION. The one status flag, `PEND` (R22, R29): the comparator that sets it and the clearing of it. -/

namespace Sys2Proof.Machine

/-- `Match(c, d)` of R102 under each `MATCH_MODE`. -/
def deadlineMatch (m : MatchMode) (c d : Word) : Bool :=
  match m with
  | .reached => decide ((c - d).toNat < 2 ^ 31)
  | .equal => c == d

/-- The comparator at one clock edge, on the incremented count: a true result sets the sticky flag, a false one
leaves it (R29, R102). -/
def comparedPend (s : State) (c : Word) : Bool := s.pend || deadlineMatch s.cfg.matchMode c s.deadline

/-- `PEND <- 0` (R92). -/
def clearPend (s : State) : State := { s with pend := false }

end Sys2Proof.Machine
end

