-- ==== Sys2Proof/Machine/Handler.lean ====
section
/-! DEFINITION. The tick handler's micro-steps (R90 to R94). -/

namespace Sys2Proof.Machine

/-- `TENTER` (R90). -/
def execTenter (s : State) : Result := whenEnabled .tenter s (.next (enterHandler s))

/-- `T1DL` (R91): the base is `DEADLINE`, not `CNT`. With `OUTF = 0`, which no run reaches, `TickPeriod` has no
value: `FREQ_ZERO`. With `OUTF > F_MAX`, which no run reaches either, the interval is zero, and no behaviour of a zero
interval is computed: `FREQ_RANGE` (R10, R147; log entry 9). -/
def execT1dl (s : State) : Result :=
  whenEnabled .t1dl s <| withLegalFrequency .t1dl s.outf s fun period =>
    .next (setHstep 2 { s with deadline := s.deadline + period })

/-- `T2CLR` (R92). -/
def execT2clr (s : State) : Result := whenEnabled .t2clr s (.next (setHstep 3 (clearPend s)))

/-- `T3WR` (R93): the sample at the index before the advance. -/
def execT3wr (s : State) : Result :=
  whenEnabled .t3wr s <|
    match s.cfg.sample s.idx.toNat with
    | none => .refused (.indexRange s.idx)
    | some v => .next (setHstep 4 { s with cmpreg := v })

/-- `T4ADV` (R94): the advance with its wrap at 100, and the return. -/
def execT4adv (s : State) : Result :=
  whenEnabled .t4adv s <|
    if 100 ≤ s.idx.toNat then .refused (.indexRange s.idx)
    else .next (returnFromHandler { s with idx := nextIndex s.idx })

end Sys2Proof.Machine
end

