-- ==== Sys2Proof/Machine/Hardware.lean ====
section
/-! DEFINITION. The clock event and the reset event (R100, R140). -/

namespace Sys2Proof.Machine

/-- The tick timer at one clock edge: the count, and the comparator on the incremented count (R100, R101, R102). -/
def tickTimerEdge (s : State) : State := { s with cnt := s.cnt + 1, pend := comparedPend s (s.cnt + 1) }

/-- The PWM carrier at one clock edge (R100, R103). A `CCNT` of `CARRIER_PERIOD` or more, which no run reaches,
counts on (log entry 15). -/
def carrierEdge (s : State) : State :=
  if s.cen then
    if s.ccnt.toNat + 1 = s.cfg.carrierPeriod then { s with ccnt := 0, cmpact := s.cmpreg }
    else { s with ccnt := s.ccnt + 1 }
  else s

/-- `CLK` (R100): the two timers are independent of each other, of `RUN` and of `HSTEP`. -/
def execClk (s : State) : Result := whenEnabled .clk s (.next (carrierEdge (tickTimerEdge s)))

/-- Every register at its value of R40; `c` and `d` are what `CNT` and `DEADLINE` are drawn as. `cfg` and the
environment's side are no registers (R140; log entry 19). -/
def resetRegisters (c d : Word) (s : State) : State :=
  { s with
    run := false
    idx := 0
    outf := s.cfg.defaultFrequency
    deadline := d
    cnt := c
    pend := false
    hstep := 0
    cen := false
    ccnt := 0
    cmpreg := 0
    cmpact := 0
    oen := false
    pol := false }

/-- The next free reset draw is used up. -/
def countReset (s : State) : State := { s with drawn := { s.drawn with resets := s.drawn.resets + 1 } }

/-- `RESET` (R140), with a fresh draw of `CNT` and `DEADLINE` (R40; log entry 4). -/
def execReset (s : State) : Result :=
  whenEnabled .reset s <|
    .next (countReset
      (resetRegisters (Config.freeResetCnt s.drawn.resets) (Config.freeResetDeadline s.drawn.resets) s))

end Sys2Proof.Machine
end

