-- ==== Sys2Proof/Machine/Dispatch.lean ====
section
/-! DEFINITION. One step of R12 as a function of the state: one arm per row of the opcode table. -/

namespace Sys2Proof.Machine

def exec (i : Instr) (s : State) : Host.Outcome State Fault Refusal :=
  match i with
  | .nop => Sys2Proof.Machine.execNop s
  | .csetup => Sys2Proof.Machine.execCsetup s
  | .start f => Sys2Proof.Machine.execStart f s
  | .stop => Sys2Proof.Machine.execStop s
  | .setf f => Sys2Proof.Machine.execSetf f s
  | .tenter => Sys2Proof.Machine.execTenter s
  | .t1dl => Sys2Proof.Machine.execT1dl s
  | .t2clr => Sys2Proof.Machine.execT2clr s
  | .t3wr => Sys2Proof.Machine.execT3wr s
  | .t4adv => Sys2Proof.Machine.execT4adv s
  | .clk => Sys2Proof.Machine.execClk s
  | .reset => Sys2Proof.Machine.execReset s

end Sys2Proof.Machine
end

