-- ==== Sys2Proof/Machine/Step.lean ====
section
/-! DEFINITION. One turn of the machine: the agent whose turn it is performs its step, if it has one. -/

namespace Sys2Proof.Machine

/-- The step of a turn: an enabled step of R12, nothing, or the refusal of an illegal command word (R74). -/
def runTurn : Turn → Host.Outcome State Fault Refusal
  | .run i s => exec i s
  | .idle s => .next s
  | .illegal w => .refused (.illegalCommand w)

/-- One turn (R106): `cfg` is checked before any step (R7). -/
def step (s : State) : Host.Outcome State Fault Refusal := withGoodCfg s (runTurn (nextTurn s))

/-- `s` with an opcode-table word standing where the next step takes its command from: on the command port, with the
host's turn next. Log entries 12 and 13. -/
def State.withFetchWord (s : State) (nbits w : Nat) : State := placeTableWord nbits w s

end Sys2Proof.Machine
end

