-- ==== Sys2Proof/Machine/Registers.lean ====
section
/-! DEFINITION. The register inventory of R23 as data, and the access matrix of R38. -/

namespace Sys2Proof.Machine

/-- The thirteen registers (R23). -/
inductive Reg where
  | run | idx | outf | deadline | cnt | pend | hstep | cen | ccnt | cmpreg | cmpact | oen | pol
  deriving DecidableEq, Repr

/-- The identification number of R23. -/
def Reg.number : Reg → Nat
  | .run => 0
  | .idx => 1
  | .outf => 2
  | .deadline => 3
  | .cnt => 4
  | .pend => 5
  | .hstep => 6
  | .cen => 7
  | .ccnt => 8
  | .cmpreg => 9
  | .cmpact => 10
  | .oen => 11
  | .pol => 12

/-- The width of R23, in bits. -/
def Reg.width : Reg → Nat
  | .run => 1
  | .idx => 7
  | .outf => 32
  | .deadline => 32
  | .cnt => 32
  | .pend => 1
  | .hstep => 3
  | .cen => 1
  | .ccnt => 16
  | .cmpreg => 16
  | .cmpact => 16
  | .oen => 1
  | .pol => 1

/-- The unsigned integer a register holds (R8). -/
def State.get (s : State) : Reg → Nat
  | .run => s.run.toNat
  | .idx => s.idx.toNat
  | .outf => s.outf.toNat
  | .deadline => s.deadline.toNat
  | .cnt => s.cnt.toNat
  | .pend => s.pend.toNat
  | .hstep => s.hstep.toNat
  | .cen => s.cen.toNat
  | .ccnt => s.ccnt.toNat
  | .cmpreg => s.cmpreg.toNat
  | .cmpact => s.cmpact.toNat
  | .oen => s.oen.toNat
  | .pol => s.pol.toNat

/-- The registers a step may write: the `w` and `rw` entries of its column in R38, and for `RESET` the two it leaves
unspecified. -/
def writes : Instr → List Reg
  | .nop => []
  | .csetup => [.cen, .ccnt, .cmpreg, .cmpact, .oen, .pol]
  | .start _ => [.run, .idx, .outf, .deadline, .pend]
  | .stop => [.run]
  | .setf _ => [.outf]
  | .tenter => [.hstep]
  | .t1dl => [.deadline, .hstep]
  | .t2clr => [.pend, .hstep]
  | .t3wr => [.hstep, .cmpreg]
  | .t4adv => [.idx, .hstep]
  | .clk => [.cnt, .pend, .ccnt, .cmpact]
  | .reset =>
    [.run, .idx, .outf, .deadline, .cnt, .pend, .hstep, .cen, .ccnt, .cmpreg, .cmpact, .oen, .pol]

/-- The registers a step may read: the `r` and `rw` entries of its column in R38. -/
def reads : Instr → List Reg
  | .nop => [.hstep]
  | .csetup => [.run, .hstep]
  | .start _ => [.run, .cnt, .hstep, .cen]
  | .stop => [.hstep]
  | .setf _ => [.hstep]
  | .tenter => [.run, .pend, .hstep]
  | .t1dl => [.outf, .deadline, .hstep]
  | .t2clr => [.hstep]
  | .t3wr => [.idx, .hstep]
  | .t4adv => [.idx, .hstep]
  | .clk => [.deadline, .cnt, .pend, .cen, .ccnt, .cmpreg]
  | .reset => []

end Sys2Proof.Machine
end

