-- ==== Sys2Proof/Machine/Run.lean ====
section
/-! DEFINITION. Finite executions, the ticks of R95 and the observation traces of R14. The traces are computed from
an execution; they are no state (R13, log entry 18). -/

namespace Sys2Proof.Machine

/-- The steps of `is` in order, each on the state its predecessor left (R58, R106). -/
def runInstrs : List Instr → State → Result
  | [], s => .next s
  | i :: is, s =>
    match exec i s with
    | .next t => runInstrs is t
    | .fault r => .fault r
    | .refused r => .refused r

/-- A completed step of an execution. -/
structure Completed where
  step   : Instr
  before : State
  after  : State
  deriving DecidableEq, Repr

/-- The completed steps of an execution, in order, up to the first that does not complete. -/
def completed : List Instr → State → List Completed
  | [], _ => []
  | i :: is, s =>
    match exec i s with
    | .next t => { step := i, before := s, after := t } :: completed is t
    | .fault _ => []
    | .refused _ => []

/-- The write trace `W_1, W_2, ...`: what each `T3WR` wrote to `CMPREG` (R14). -/
def writeTrace (is : List Instr) (s : State) : List Sample :=
  (completed is s).filterMap fun e => if e.step = .t3wr then some e.after.cmpreg else none

/-- The index trace: `IDX` after each `T4ADV` (R14). -/
def indexTrace (is : List Instr) (s : State) : List Index :=
  (completed is s).filterMap fun e => if e.step = .t4adv then some e.after.idx else none

/-- The deadline trace: `DEADLINE` after each `T1DL` (R14). -/
def deadlineTrace (is : List Instr) (s : State) : List Word :=
  (completed is s).filterMap fun e => if e.step = .t1dl then some e.after.deadline else none

/-- `OUTF` as each `T1DL` saw it, the `f_1, f_2, ...` of R97. -/
def frequencyTrace (is : List Instr) (s : State) : List Word :=
  (completed is s).filterMap fun e => if e.step = .t1dl then some e.before.outf else none

/-- `pwm_out` after each `CLK` (R14). -/
def pinTrace (is : List Instr) (s : State) : List Pin :=
  (completed is s).filterMap fun e => if e.step = .clk then some (pwmOut e.after) else none

/-- The number of the last completed tick after a completed step, `k` being that number before it (R14): `T4ADV`
completes the next tick, `START` begins the count anew, and so does `RESET`, which starts a new run (R140). -/
def tickNumberAfter (i : Instr) (k : Nat) : Nat :=
  match i with
  | .nop => k
  | .csetup => k
  | .start _ => 0
  | .stop => k
  | .setf _ => k
  | .tenter => k
  | .t1dl => k
  | .t2clr => k
  | .t3wr => k
  | .t4adv => k + 1
  | .clk => k
  | .reset => 0

/-- The number of the last completed tick after the given completed steps. -/
def lastTick : Nat → List Completed → Nat
  | k, [] => k
  | k, e :: es => lastTick (tickNumberAfter e.step k) es

/-- How many ticks an execution has completed since the most recent `START` in it, or since its beginning where it has
none (R14). -/
def tickCount (is : List Instr) (s : State) : Nat := lastTick 0 (completed is s)

/-- The completed steps, each with the number of the tick completed last before it; a handler micro-step is part of the
tick after that one. -/
def numbered : Nat → List Completed → List (Nat × Completed)
  | _, [] => []
  | k, e :: es => (k, e) :: numbered (tickNumberAfter e.step k) es

/-- `W_k` with its `k`: each entry of the write trace with the number of its tick (R14). -/
def tickWrites (is : List Instr) (s : State) : List (Nat × Sample) :=
  (numbered 0 (completed is s)).filterMap fun p =>
    if p.2.step = .t3wr then some (p.1 + 1, p.2.after.cmpreg) else none

/-- Each entry of the index trace with the number of its tick: one entry for each completed tick (R14). -/
def tickIndices (is : List Instr) (s : State) : List (Nat × Index) :=
  (numbered 0 (completed is s)).filterMap fun p =>
    if p.2.step = .t4adv then some (p.1 + 1, p.2.after.idx) else none

/-- `D_k` with its `k`: each entry of the deadline trace with the number of its tick (R14, R97). -/
def tickDeadlines (is : List Instr) (s : State) : List (Nat × Word) :=
  (numbered 0 (completed is s)).filterMap fun p =>
    if p.2.step = .t1dl then some (p.1 + 1, p.2.after.deadline) else none

/-- The edge at which a tick becomes pending: the pending flag rises (R29, R102). -/
def Completed.pends (e : Completed) : Bool := !e.before.pend && e.after.pend

/-- How many clock edges there have been after a completed step, `n` before it. -/
def edgesAfter (n : Nat) (e : Completed) : Nat := if e.step = .clk then n + 1 else n

/-- At which clock edges the pending flag rises, `n` edges having gone before. -/
def pendingEdges : Nat → List Completed → List Nat
  | _, [] => []
  | n, e :: es =>
    if e.pends then edgesAfter n e :: pendingEdges (edgesAfter n e) es else pendingEdges (edgesAfter n e) es

/-- The pending trace: for each tick that becomes pending, how many clock edges the execution has had by then, that
one included. -/
def pendingTrace (is : List Instr) (s : State) : List Nat := pendingEdges 0 (completed is s)

/-- `n` clock edges. -/
def clks (n : Nat) : List Instr := List.replicate n .clk

/-- One tick with `a`, `b`, `c`, `d` clock edges between its micro-steps (R95, R106). -/
def tickWithClks (a b c d : Nat) : List Instr :=
  [.tenter] ++ clks a ++ [.t1dl] ++ clks b ++ [.t2clr] ++ clks c ++ [.t3wr] ++ clks d ++ [.t4adv]

/-- The state after `n` clock edges. -/
def afterClks : Nat → State → State
  | 0, s => s
  | n + 1, s => afterClks n (carrierEdge (tickTimerEdge s))

/-- The sum of the tick periods of the given frequencies, modulo `2^32`; none if one of them has no period (R97). -/
def periodSum (c : Cfg) : List Word → Option Word
  | [] => some 0
  | f :: fs =>
    match c.tickPeriod f, periodSum c fs with
    | some p, some q => some (p + q)
    | _, _ => none

end Sys2Proof.Machine
end

