-- ==== Sys2Proof/Machine/Script.lean ====
section
/-! DEFINITION. The script language of R78 and R79: the directives, what each does, and the text of a script. -/

namespace Sys2Proof.Machine

/-- One line of a script: a step of R12 or a directive of R79. -/
inductive Directive where
  | step (i : Instr)
  | clkTimes (n : Nat)
  | tick
  | untilPend
  | runTicks (k : Nat)
  | expect (r : Reg) (v : Nat)
  deriving DecidableEq, Repr

/-- Why a script does not reach its end. -/
inductive ScriptStop where
  /-- a step faulted -/
  | fault (r : Fault)
  /-- a step was refused, or was not enabled where the script asks for it -/
  | refused (r : Refusal)
  /-- an `EXPECT` did not hold -/
  | unexpected (r : Reg) (actual : Nat)
  /-- an `UNTIL_PEND` found no match in a whole period of the counter -/
  | unending
  deriving DecidableEq, Repr

/-- The steps of a list in order, as a part of a script. -/
def scriptSteps (is : List Instr) (s : State) : Except ScriptStop State :=
  match runInstrs is s with
  | .next t => .ok t
  | .fault r => .error (.fault r)
  | .refused r => .error (.refused r)

/-- `CLK` while `PEND = 0`, at most `n` times (R79). -/
def clkUntilPend : Nat → State → Except ScriptStop State
  | 0, s => if s.pend then .ok s else .error .unending
  | n + 1, s =>
    if s.pend then .ok s
    else
      match exec .clk s with
      | .next t => clkUntilPend n t
      | .fault r => .error (.fault r)
      | .refused r => .error (.refused r)

/-- `UNTIL_PEND` (R79), bounded by one period of the 32-bit counter, in which a match always comes. Log entry 17. -/
def untilPend (s : State) : Except ScriptStop State := clkUntilPend (2 ^ 32) s

/-- `TICK` (R79): the five micro-steps with no other step between. -/
def tickSteps : List Instr := tickWithClks 0 0 0 0

/-- `RUNTICKS k` (R79). -/
def runTicks : Nat → State → Except ScriptStop State
  | 0, s => .ok s
  | k + 1, s =>
    match untilPend s with
    | .error e => .error e
    | .ok t =>
      match scriptSteps tickSteps t with
      | .error e => .error e
      | .ok u => runTicks k u

/-- What one line of a script does (R79). -/
def runDirective (d : Directive) (s : State) : Except ScriptStop State :=
  match d with
  | .step i => scriptSteps [i] s
  | .clkTimes n => scriptSteps (clks n) s
  | .tick => scriptSteps tickSteps s
  | .untilPend => untilPend s
  | .runTicks k => runTicks k s
  | .expect r v => if s.get r = v then .ok s else .error (.unexpected r (s.get r))

/-- A whole script. -/
def runScript : List Directive → State → Except ScriptStop State
  | [], s => .ok s
  | d :: ds, s =>
    match runDirective d s with
    | .error e => .error e
    | .ok t => runScript ds t

/-- White space within a line (log entry 20). -/
def isBlank (c : Char) : Bool := c == ' ' || c == '\t' || c == '\r'

/-- The pieces of a text between separator characters. -/
def splitAtChar (sep : Char → Bool) (cs : List Char) : List (List Char) :=
  cs.foldr
    (fun c acc =>
      if sep c then [] :: acc
      else
        match acc with
        | w :: ws => (c :: w) :: ws
        | [] => [[c]])
    [[]]

/-- The words of a line, without its comment (R78). -/
def lineWords (cs : List Char) : List (List Char) :=
  (splitAtChar isBlank (cs.takeWhile fun c => c != ';')).filter fun w => !w.isEmpty

/-- The value of a digit, decimal or hexadecimal. -/
def digitValue (c : Char) : Option Nat :=
  if '0'.toNat ≤ c.toNat ∧ c.toNat ≤ '9'.toNat then some (c.toNat - '0'.toNat)
  else if 'a'.toNat ≤ c.toNat ∧ c.toNat ≤ 'f'.toNat then some (c.toNat - 'a'.toNat + 10)
  else if 'A'.toNat ≤ c.toNat ∧ c.toNat ≤ 'F'.toNat then some (c.toNat - 'A'.toNat + 10)
  else none

/-- Digits of a base, with underscores between digit groups (R78); `afterDigit` says a digit stands just before. -/
def readDigits (base : Nat) : List Char → Nat → Bool → Option Nat
  | [], acc, afterDigit => if afterDigit then some acc else none
  | c :: cs, acc, afterDigit =>
    if c == '_' then if afterDigit then readDigits base cs acc false else none
    else
      match digitValue c with
      | some d => if d < base then readDigits base cs (acc * base + d) true else none
      | none => none

/-- A number: decimal, or hexadecimal after `0x` (R78). -/
def readNumber : List Char → Option Nat
  | '0' :: 'x' :: cs => readDigits 16 cs 0 false
  | cs => readDigits 10 cs 0 false

/-- The argument of `START` and `SETF`, a number of 32 bits (R72, R78). -/
def readArgument (cs : List Char) : Option Word :=
  match readNumber cs with
  | some n => if n < 2 ^ 32 then some (BitVec.ofNat 32 n) else none
  | none => none

/-- A register by its name in R23. -/
def readRegister (cs : List Char) : Option Reg :=
  if cs = "RUN".toList then some .run
  else if cs = "IDX".toList then some .idx
  else if cs = "OUTF".toList then some .outf
  else if cs = "DEADLINE".toList then some .deadline
  else if cs = "CNT".toList then some .cnt
  else if cs = "PEND".toList then some .pend
  else if cs = "HSTEP".toList then some .hstep
  else if cs = "CEN".toList then some .cen
  else if cs = "CCNT".toList then some .ccnt
  else if cs = "CMPREG".toList then some .cmpreg
  else if cs = "CMPACT".toList then some .cmpact
  else if cs = "OEN".toList then some .oen
  else if cs = "POL".toList then some .pol
  else none

/-- A line of one word (R78, R79). -/
def readPlain (cs : List Char) : Option Directive :=
  if cs = "NOP".toList then some (.step .nop)
  else if cs = "CSETUP".toList then some (.step .csetup)
  else if cs = "STOP".toList then some (.step .stop)
  else if cs = "TENTER".toList then some (.step .tenter)
  else if cs = "T1DL".toList then some (.step .t1dl)
  else if cs = "T2CLR".toList then some (.step .t2clr)
  else if cs = "T3WR".toList then some (.step .t3wr)
  else if cs = "T4ADV".toList then some (.step .t4adv)
  else if cs = "CLK".toList then some (.step .clk)
  else if cs = "RESET".toList then some (.step .reset)
  else if cs = "TICK".toList then some .tick
  else if cs = "UNTIL_PEND".toList then some .untilPend
  else none

/-- A line of a word and a number (R78, R79). -/
def readWithNumber (cs arg : List Char) : Option Directive :=
  if cs = "START".toList then (readArgument arg).map fun f => .step (.start f)
  else if cs = "SETF".toList then (readArgument arg).map fun f => .step (.setf f)
  else if cs = "CLK".toList then (readNumber arg).map .clkTimes
  else if cs = "RUNTICKS".toList then (readNumber arg).map .runTicks
  else none

/-- `EXPECT <reg> = <v>` (R79). -/
def readExpect (cs reg eq v : List Char) : Option Directive :=
  if cs = "EXPECT".toList ∧ eq = "=".toList then
    match readRegister reg, readNumber v with
    | some r, some n => some (.expect r n)
    | _, _ => none
  else none

/-- One line: `none` where it is no line of the language, no directive for a blank or comment line. -/
def readLine (cs : List Char) : Option (List Directive) :=
  match lineWords cs with
  | [] => some []
  | [m] => (readPlain m).map fun d => [d]
  | [m, a] => (readWithNumber m a).map fun d => [d]
  | [m, r, e, v] => (readExpect m r e v).map fun d => [d]
  | _ => none

/-- The directives of some lines; `none` as soon as one of them is no line of the language. -/
def readLines : List (List Char) → Option (List Directive)
  | [] => some []
  | l :: ls =>
    match readLine l, readLines ls with
    | some ds, some rest => some (ds ++ rest)
    | _, _ => none

/-- The text of a script, one step per line (R78). -/
def readScript (cs : List Char) : Option (List Directive) := readLines (splitAtChar (fun c => c == '\n') cs)

end Sys2Proof.Machine
end

