-- ==== Sys2Proof/Safety.lean ====
section
/-! DEFINITION. The terms claims use: the invariants of R39, reachable states, overruns, and infinite executions with
the two fairness assumptions of R106. -/

namespace Sys2Proof.Machine

/-- `cfg` meets every constraint of R7. -/
structure GoodCfg (c : Cfg) : Prop where
  sampleCount : c.sampleCount = 100
  wordWidth : c.wordWidth = 32
  clockLow : 100 ≤ c.clockFrequency
  clockHigh : c.clockFrequency < 2 ^ 32
  carrierLow : 2 ≤ c.carrierPeriod
  carrierHigh : c.carrierPeriod ≤ 2 ^ 16
  tableRange : ∀ i v, c.sample i = some v → v.toNat < c.carrierPeriod
  tableStart : c.sample 0 = some 0
  defaultFrequency : c.legalFrequency c.defaultFrequency

/-- The invariants I1 to I8 of R39, over a `cfg` that meets R7. -/
structure Inv (s : State) : Prop where
  cfgGood : GoodCfg s.cfg
  idxRange : s.idx.toNat ≤ 99
  hstepRange : s.hstep.toNat ≤ 4
  handlerRuns : s.hstep ≠ 0 → s.run = true
  outfLegal : s.cfg.legalFrequency s.outf
  cmpregRange : s.cmpreg.toNat < s.cfg.carrierPeriod
  cmpactRange : s.cmpact.toNat < s.cfg.carrierPeriod
  ccntRange : s.ccnt.toNat < s.cfg.carrierPeriod
  runNeedsCarrier : s.run = true → s.cen = true
  outputWithCarrier : s.oen = s.cen

/-- The registers of two states are equal, and so is `cfg`: they differ at most in the environment's side. -/
def SameRegisters (s t : State) : Prop :=
  t = { s with commands := t.commands, schedule := t.schedule, drawn := t.drawn }

/-- A state right after reset for some `cfg` that meets R7, some draw of `CNT` and `DEADLINE`, and any environment
(R40, R141). -/
def AfterReset (s : State) : Prop := GoodCfg s.cfg ∧ ∃ c d, SameRegisters (resetRegisters c d s) s

/-- The states that turns of the machine reach from a reset. -/
inductive Reachable : State → Prop where
  | reset (s : State) : AfterReset s → Reachable s
  | step (s t : State) : Reachable s → step s = .next t → Reachable t

/-- The next deadline is already reached (R119): `Match(CNT, DEADLINE)` under `reached`. -/
def deadlineReached (s : State) : Prop := (s.cnt - s.deadline).toNat < 2 ^ 31

/-- How many clock edges are left until the count is the deadline; a deadline equal to the count is a whole period of
the counter away. -/
def edgesToDeadline (s : State) : Nat :=
  if s.deadline = s.cnt then 2 ^ 32 else (s.deadline - s.cnt).toNat

/-- The lateness at the beginning of an execution: where a tick is requested already, its clock edges are counted from
there, since the ones before are not known (log entry 24). -/
def latenessAtStart (s : State) : Option Nat := if tickIrq s then some 0 else none

/-- The lateness after a completed step, `late` before it: how many clock edges the tick that waits for its handler has
been pending, none while no tick waits. A tick begins to wait when the flag rises with the engine Running, and waits,
through a `STOP` too, until the flag is cleared; a flag that rises in a Stopped engine is no tick (R102, R114). Edges are
counted, not read off `CNT`, which shows them modulo `2^32` only. -/
def latenessAfter (late : Option Nat) (e : Completed) : Option Nat :=
  if e.pends then (if e.after.run then some 0 else none)
  else if e.after.pend then late.map fun n => edgesAfter n e
  else none

/-- The completed steps, each with the lateness just before it. -/
def withLateness : Option Nat → List Completed → List (Option Nat × Completed)
  | _, [] => []
  | late, e :: es => (late, e) :: withLateness (latenessAfter late e) es

/-- The lateness after the given completed steps. -/
def lastLateness : Option Nat → List Completed → Option Nat
  | late, [] => late
  | late, e :: es => lastLateness (latenessAfter late e) es

/-- The state in which the given completed steps end. -/
def lastState : State → List Completed → State
  | s, [] => s
  | _, e :: es => lastState e.after es

/-- `n` clock edges are fewer than one tick period at the frequency in `OUTF`. -/
def withinPeriod (n : Nat) (s : State) : Bool :=
  match s.cfg.tickPeriod s.outf with
  | some period => decide (n < period.toNat)
  | none => false

/-- No tick waits, or it has been pending for less than one tick period: the following deadline, one period after the
deadline at which it became pending, is still ahead. -/
def inTime (late : Option Nat) (s : State) : Bool :=
  match late with
  | none => true
  | some n => withinPeriod n s

/-- Every tick that is served is served in time (R120): each `TENTER` fires before the following deadline, and each
`T2CLR` comes while the deadline just computed is still in the future, by R120's formula and by the edges counted. -/
def ServedInTime (is : List Instr) (s : State) : Prop :=
  ∀ p ∈ withLateness (latenessAtStart s) (completed is s),
    (p.2.step = .tenter → inTime p.1 p.2.before = true) ∧
    (p.2.step = .t2clr → ¬ deadlineReached p.2.before ∧ inTime p.1 p.2.before = true)

/-- The steps that throw a waiting tick away: they clear the pending flag outside the handler (R22). -/
def discardsTick : Instr → Bool
  | .nop => false
  | .csetup => false
  | .start _ => true
  | .stop => false
  | .setf _ => false
  | .tenter => false
  | .t1dl => false
  | .t2clr => false
  | .t3wr => false
  | .t4adv => false
  | .clk => false
  | .reset => true

/-- No tick is left unserved beyond the following deadline: none is when a `START` or a `RESET` throws it away, and none
where the execution ends. -/
def NoneLeftWaiting (is : List Instr) (s : State) : Prop :=
  (∀ p ∈ withLateness (latenessAtStart s) (completed is s),
    discardsTick p.2.step = true → inTime p.1 p.2.before = true) ∧
  inTime (lastLateness (latenessAtStart s) (completed is s)) (lastState s (completed is s)) = true

/-- An execution is overrun-free (R120): every tick is served, and in time; only a tick whose following deadline is still
ahead may be waiting where the execution ends (log entry 24). -/
def OverrunFree (is : List Instr) (s : State) : Prop := ServedInTime is s ∧ NoneLeftWaiting is s

/-- What the registers show of being overrun-free: at every `T2CLR` R120's formula, and at every `TENTER` less than one
tick period since the deadline it serves, both on `CNT - DEADLINE` modulo `2^32`. It admits more executions than
`OverrunFree`: a lateness of whole periods of the counter is not seen (log entry 24). -/
def OverrunFreeModulo (is : List Instr) (s : State) : Prop :=
  ∀ e ∈ completed is s,
    (e.step = .t2clr → ¬ deadlineReached e.before) ∧
    (e.step = .tenter → ∀ p, e.before.cfg.tickPeriod e.before.outf = some p →
      (e.before.cnt - e.before.deadline).toNat < p.toNat)

/-- An infinite execution (R14, R106): `steps n` takes `states n` to `states (n + 1)`. -/
def IsExecution (steps : Nat → Instr) (states : Nat → State) : Prop :=
  ∀ n, exec (steps n) (states n) = .next (states (n + 1))

/-- F1 (R106): `CLK` occurs infinitely often. -/
def ClockFair (steps : Nat → Instr) : Prop := ∀ n, ∃ m, n ≤ m ∧ steps m = .clk

/-- F2 (R106): a handler micro-step that stays enabled eventually fires. -/
def HandlerFair (steps : Nat → Instr) (states : Nat → State) : Prop :=
  ∀ i, i.inHandler = true → ∀ n, (∀ m, n ≤ m → enabled i (states m) = true) → ∃ m, n ≤ m ∧ steps m = i

/-- The steps after which the waveform runs on from where it was: neither a new `START`, nor a `STOP`, nor a
`RESET`. -/
def keepsRunning : Instr → Bool
  | .nop => true
  | .csetup => true
  | .start _ => false
  | .stop => false
  | .setf _ => true
  | .tenter => true
  | .t1dl => true
  | .t2clr => true
  | .t3wr => true
  | .t4adv => true
  | .clk => true
  | .reset => false

end Sys2Proof.Machine
end

