-- ==== Sys2Proof/Certificates/Slice0/Obligations.lean ====
section
/-! DEFINITION. The statements for the provers. Fields and formulas of the spec are written out where a statement says
what a rule computes; the model's own choices are named with their log entry. -/

open Sys2Proof Sys2Proof.Machine

/-! ## Encoding -/

/-- Words written out from R73 and R75, the vectors E1 to E17 in order, decode as the spec says. -/
def Obligations.Command_words_decode : Prop :=
  decode 0x000000000#35 = some .nop ∧ decode 0x0DEADBEEF#35 = some .nop ∧
  decode 0x100000000#35 = some .csetup ∧ decode 0x1FFFFFFFF#35 = some .csetup ∧
  decode 0x200000064#35 = some (.start 100) ∧ decode 0x200000001#35 = some (.start 1) ∧
  decode 0x200075300#35 = some (.start 480000) ∧
  decode 0x200000000#35 = some (.start 0) ∧ decode 0x300000000#35 = some .stop ∧
  decode 0x300000001#35 = some .stop ∧ decode 0x400000032#35 = some (.setf 50) ∧
  decode 0x4000000C8#35 = some (.setf 200) ∧ decode 0x400075301#35 = some (.setf 480001) ∧
  decode 0x4FFFFFFFF#35 = some (.setf 4294967295) ∧
  decode 0x500000000#35 = none ∧ decode 0x600000064#35 = none ∧ decode 0x7FFFFFFFF#35 = none

/-- R75: every command has the encoding R75 gives it, and decoding it gives the command back, for every argument; and
every word decodes to a command or to `illegal`. -/
def Obligations.Decode_of_encode_is_the_command : Prop :=
  (∀ i : Instr, i.wellFormed = true → ∃ w, encode i = some w ∧ decode w = some i) ∧
  encode .nop = some 0x000000000#35 ∧ encode .csetup = some 0x100000000#35 ∧
  encode .stop = some 0x300000000#35 ∧
  (∀ f : Word, encode (.start f) = some (0x200000000#35 + f.setWidth 35)) ∧
  (∀ f : Word, encode (.setf f) = some (0x400000000#35 + f.setWidth 35)) ∧
  (∀ w : CmdWord, decode w = none ∨ decode w = some .nop ∨ decode w = some .csetup ∨
    decode w = some (.start (w.extractLsb' 0 32)) ∨ decode w = some .stop ∨
    decode w = some (.setf (w.extractLsb' 0 32)))

/-- The opcode map as match and mask over the 35-bit word (R73), with the reserved op values (R74). -/
def Obligations.Decode_by_match_and_mask : Prop :=
  ∀ w : CmdWord,
    (decode w = some .nop ↔ w &&& 0x700000000#35 = 0x000000000#35) ∧
    (decode w = some .csetup ↔ w &&& 0x700000000#35 = 0x100000000#35) ∧
    (decode w = some (.start (w.extractLsb' 0 32)) ↔ w &&& 0x700000000#35 = 0x200000000#35) ∧
    (decode w = some .stop ↔ w &&& 0x700000000#35 = 0x300000000#35) ∧
    (decode w = some (.setf (w.extractLsb' 0 32)) ↔ w &&& 0x700000000#35 = 0x400000000#35) ∧
    (decode w = none ↔ w &&& 0x700000000#35 = 0x500000000#35 ∨ w &&& 0x700000000#35 = 0x600000000#35 ∨
      w &&& 0x700000000#35 = 0x700000000#35)

/-- The other direction: encoding what a word decodes to gives the word back exactly when the word is of format C1 or
its ignored bits are zero. -/
def Obligations.Encode_of_decode_is_the_word : Prop :=
  ∀ (w : CmdWord) (i : Instr), decode w = some i →
    (encode i = some w ↔ i = .start (w.extractLsb' 0 32) ∨ i = .setf (w.extractLsb' 0 32) ∨
      w.extractLsb' 0 32 = 0#32)

/-! ## The configuration -/

/-- R7 and cause 6 of R110: a turn is refused with `BAD_CFG` exactly when `cfg` breaks a constraint of R7, and the record is a constraint that it breaks. -/
def Obligations.Bad_cfg_is_refused_before_any_step : Prop :=
  ∀ s : State,
    (GoodCfg s.cfg ↔ ∀ k, s.cfg.meets k = true) ∧
    (GoodCfg s.cfg → ∀ k, step s ≠ .refused (.badCfg k)) ∧
    (¬ GoodCfg s.cfg → ∃ k, step s = .refused (.badCfg k) ∧ s.cfg.meets k = false)

/-- The default `cfg` meets R7, and its table has the checks of R53: minimum, maximum, sum, symmetry and the two
tied entries. -/
def Obligations.Default_cfg_is_good : Prop :=
  GoodCfg Cfg.default ∧ Cfg.default.clockFrequency = 48000000 ∧ Cfg.default.carrierPeriod = 256 ∧
  Cfg.default.defaultFrequency = 100 ∧ Cfg.default.matchMode = .reached ∧ Cfg.default.polarity = .activeHigh ∧
  Cfg.default.fMax = 480000 ∧
  (∀ i ∈ [0, 1, 99], Cfg.default.sample i = some 0) ∧ (∀ i ∈ [49, 50, 51], Cfg.default.sample i = some 255) ∧
  Cfg.default.sample 25 = some 128 ∧ Cfg.default.sample 75 = some 128 ∧
  (Cfg.default.table.toList.map BitVec.toNat).sum = 12751 ∧
  (∀ n ∈ List.range 100, 1 ≤ n → Cfg.default.sample n = Cfg.default.sample (100 - n))

/-- R10: `TickPeriod` is defined exactly for `f != 0`; for a legal `f` it is `floor(C / (100 f))`, at least 1, at most
`F_MAX` and below `2^26`; above `F_MAX` it is 0; and `F_MAX` has period 1. -/
def Obligations.TickPeriod_of_legal_and_illegal_frequencies : Prop :=
  ∀ (c : Cfg) (f : Word), GoodCfg c →
    (c.tickPeriod f = none ↔ f = 0) ∧
    (1 ≤ f.toNat → f.toNat ≤ c.clockFrequency / 100 → ∃ p, c.tickPeriod f = some p ∧
      p.toNat = c.clockFrequency / f.toNat / 100 ∧ p.toNat = c.clockFrequency / (100 * f.toNat) ∧
      1 ≤ p.toNat ∧ p.toNat ≤ c.clockFrequency / 100 ∧ p.toNat < 2 ^ 26) ∧
    (c.clockFrequency / 100 < f.toNat → c.tickPeriod f = some 0) ∧
    (f.toNat = c.clockFrequency / 100 → c.tickPeriod f = some 1)

/-! ## Reset -/

/-- R140 with the values of R40: `RESET` completes in every state, handler context included; the eleven registers R40
gives a value take it, `CNT` and `DEADLINE` take some value, and `cfg` is unaffected. -/
def Obligations.Reset_event_sets_every_register : Prop :=
  ∀ s : State, ∃ t c d, exec .reset s = .next t ∧
    SameRegisters { s with
      run := false, idx := 0, outf := s.cfg.defaultFrequency, deadline := d, cnt := c, pend := false, hstep := 0,
      cen := false, ccnt := 0, cmpreg := 0, cmpact := 0, oen := false, pol := false } t

/-- How the model draws the two values R40 leaves unspecified (log entry 4) and what it leaves to the environment
(log entry 19): the free values of the draw counter, which goes up by one, and nothing else of the environment
changes. The model's own choice. -/
def Obligations.Reset_draws_fresh_values : Prop :=
  ∀ s t : State, exec .reset s = .next t →
    t.deadline = Config.freeResetDeadline s.drawn.resets ∧ t.cnt = Config.freeResetCnt s.drawn.resets ∧
    t.drawn = { s.drawn with resets := s.drawn.resets + 1 } ∧ t.commands = s.commands ∧ t.schedule = s.schedule

/-- R141 for every draw of `CNT` and `DEADLINE` (R40), every good `cfg` and every environment, and that the model's
`State.reset` is such a state: Stopped, the tick disabled and not pending, thread context, carrier not running, output
not driven; the count starts with the first clock edge. -/
def Obligations.After_reset_the_block_waits : Prop :=
  AfterReset State.reset ∧
  ∀ s : State, AfterReset s → s.run = false ∧ s.idx = 0 ∧ s.outf = s.cfg.defaultFrequency ∧ s.pend = false ∧
    s.hstep = 0 ∧ s.cen = false ∧ s.ccnt = 0 ∧ s.cmpreg = 0 ∧ s.cmpact = 0 ∧ s.oen = false ∧ s.pol = false ∧
    tickIrq s = false ∧ cmdReady s = true ∧ pwmOut s = .undriven ∧
    (∀ t, exec .clk s = .next t → t.cnt = s.cnt + 1)

/-! ## Host commands -/

/-- R80: every word with op 000 is `NOP`; it completes in thread context and changes nothing. -/
def Obligations.Nop_changes_nothing : Prop :=
  (∀ w : CmdWord, w.extractLsb' 32 3 = 0#3 → decode w = some .nop) ∧
  (∀ s : State, enabled .nop s = true ↔ s.hstep = 0) ∧
  ∀ s : State, s.hstep = 0 → exec .nop s = .next s

/-- R81: every word with op 001 is `CSETUP`; in thread context it is refused with `SEQUENCE` while `RUN = 1`, and else
sets up the carrier and touches no other register; the output is at its zero-duty level from then on, in every
execution without `RESET`, as long as no `T3WR` writes a non-zero sample. -/
def Obligations.Csetup_sets_up_the_carrier : Prop :=
  (∀ w : CmdWord, w.extractLsb' 32 3 = 1#3 → decode w = some .csetup) ∧
  (∀ s : State, enabled .csetup s = true ↔ s.hstep = 0) ∧
  ∀ s : State, s.hstep = 0 →
    (s.run = true → exec .csetup s = .refused (.sequence .csetup s.run s.cen)) ∧
    (s.run = false → exec .csetup s = .next { s with
      cen := true, ccnt := 0, cmpreg := 0, cmpact := 0, oen := true,
      pol := decide (s.cfg.polarity = .activeLow) }) ∧
    (∀ t is u, exec .csetup s = .next t → Instr.reset ∉ is → (∀ v ∈ writeTrace is t, v = 0) →
      runInstrs is t = .next u → pwmOut u = .driven (decide (s.cfg.polarity = .activeLow)))

/-- R82: every word with op 010 is `START f`; in thread context its checks come in R82's order, and a legal `f` starts
the engine; the first tick becomes pending exactly `TickPeriod(f)` clock edges later, in either match mode. -/
def Obligations.Start_arms_the_tick : Prop :=
  (∀ w : CmdWord, w.extractLsb' 32 3 = 2#3 → decode w = some (.start (w.extractLsb' 0 32))) ∧
  (∀ (s : State) (f : Word), enabled (.start f) s = true ↔ s.hstep = 0) ∧
  ∀ (s : State) (f : Word), s.hstep = 0 →
    (s.run = true → exec (.start f) s = .refused (.sequence (.start f) s.run s.cen)) ∧
    (s.run = false → s.cen = false → exec (.start f) s = .refused (.sequence (.start f) s.run s.cen)) ∧
    (s.run = false → s.cen = true → f = 0 → exec (.start f) s = .fault (.freqZero (.start f))) ∧
    (s.run = false → s.cen = true → f ≠ 0 → s.cfg.clockFrequency / 100 < f.toNat →
      exec (.start f) s = .fault (.freqRange (.start f) f)) ∧
    (s.run = false → s.cen = true → 1 ≤ f.toNat → f.toNat ≤ s.cfg.clockFrequency / 100 →
      exec (.start f) s = .next { s with
        outf := f, idx := 0, pend := false, run := true,
        deadline := s.cnt + BitVec.ofNat 32 (s.cfg.clockFrequency / f.toNat / 100) }) ∧
    (∀ t, GoodCfg s.cfg → exec (.start f) s = .next t → ∀ n, n ≤ s.cfg.clockFrequency / f.toNat / 100 →
      ∃ u, runInstrs (clks n) t = .next u ∧ (u.pend = true ↔ n = s.cfg.clockFrequency / f.toNat / 100))

/-- R83: every word with op 011 is `STOP`; in thread context it clears `RUN` and nothing else, `PEND` included, and
changes nothing when `RUN = 0` already; the handler cannot be entered then, the output keeps its level, and the next
clock edge counts, compares and steps the carrier as it would have without the `STOP`. -/
def Obligations.Stop_clears_run_only : Prop :=
  (∀ w : CmdWord, w.extractLsb' 32 3 = 3#3 → decode w = some .stop) ∧
  (∀ s : State, enabled .stop s = true ↔ s.hstep = 0) ∧
  ∀ s : State, s.hstep = 0 →
    exec .stop s = .next { s with run := false } ∧
    (s.run = false → exec .stop s = .next s) ∧
    (∀ t, exec .stop s = .next t → enabled .tenter t = false ∧ pwmOut t = pwmOut s) ∧
    (∀ t u v, exec .stop s = .next t → exec .clk t = .next u → exec .clk s = .next v → u = { v with run := false })

/-- R84: every word with op 100 is `SETF f`; in thread context, in either state of `RUN`, a legal `f` is written to
`OUTF` and nothing else changes, `DEADLINE` included; 0 and a frequency above `F_MAX` fault. -/
def Obligations.Setf_writes_outf_only : Prop :=
  (∀ w : CmdWord, w.extractLsb' 32 3 = 4#3 → decode w = some (.setf (w.extractLsb' 0 32))) ∧
  (∀ (s : State) (f : Word), enabled (.setf f) s = true ↔ s.hstep = 0) ∧
  ∀ (s : State) (f : Word), s.hstep = 0 →
    (f = 0 → exec (.setf f) s = .fault (.freqZero (.setf f))) ∧
    (f ≠ 0 → s.cfg.clockFrequency / 100 < f.toNat → exec (.setf f) s = .fault (.freqRange (.setf f) f)) ∧
    (1 ≤ f.toNat → f.toNat ≤ s.cfg.clockFrequency / 100 → exec (.setf f) s = .next { s with outf := f })

/-- R113 on a turn of the machine: of several causes the first of `ILLEGAL_COMMAND`, `SEQUENCE`, `FREQ_ZERO`,
`FREQ_RANGE` is reported, whatever word the host presents. -/
def Obligations.First_cause_is_reported : Prop :=
  ∀ (s : State) (rest : List Agent) (w : CmdWord) (ws : List CmdWord),
    GoodCfg s.cfg → s.hstep = 0 → s.schedule = .host :: rest → s.commands = w :: ws →
    let op := w.extractLsb' 32 3
    let f := w.extractLsb' 0 32
    (5 ≤ op.toNat → step s = .refused (.illegalCommand w)) ∧
    (op = 1#3 → s.run = true → step s = .refused (.sequence .csetup s.run s.cen)) ∧
    (op = 2#3 → s.run = true ∨ s.cen = false → step s = .refused (.sequence (.start f) s.run s.cen)) ∧
    (op = 2#3 → s.run = false → s.cen = true → f = 0 → step s = .fault (.freqZero (.start f))) ∧
    (op = 2#3 → s.run = false → s.cen = true → s.cfg.clockFrequency / 100 < f.toNat →
      step s = .fault (.freqRange (.start f) f)) ∧
    (op = 4#3 → f = 0 → step s = .fault (.freqZero (.setf f))) ∧
    (op = 4#3 → s.cfg.clockFrequency / 100 < f.toNat → step s = .fault (.freqRange (.setf f) f))

/-! ## The tick handler -/

/-- R90 and the entry of R117: with a requested tick in thread context `TENTER` completes, `HSTEP` becomes 1 and
nothing else changes; from then on, in every execution without `RESET`, until `T4ADV` completes, `cmd_ready` is 0 and no
host command and no second `TENTER` is executed; a clock edge keeps `TENTER` enabled, a `STOP` does not. -/
def Obligations.Tenter_enters_the_handler : Prop :=
  ∀ s : State,
    (enabled .tenter s = true ↔ s.run = true ∧ s.pend = true ∧ s.hstep = 0) ∧
    (s.run = true → s.pend = true → s.hstep = 0 →
      exec .tenter s = .next { s with hstep := 1 } ∧
      (∀ t is u, exec .tenter s = .next t → Instr.t4adv ∉ is → Instr.reset ∉ is → runInstrs is t = .next u →
        cmdReady u = false ∧ ∀ i ∈ is, i.wellFormed = false ∧ i ≠ .tenter) ∧
      (∀ t, exec .clk s = .next t → enabled .tenter t = true) ∧
      (∀ t, exec .stop s = .next t → enabled .tenter t = false))

/-- R91: with `HSTEP = 1` and a legal `OUTF`, `T1DL` moves `DEADLINE` on from `DEADLINE`, not from `CNT`, by
`TickPeriod(OUTF)` modulo `2^32`; with `OUTF = 0` it faults. -/
def Obligations.T1dl_moves_the_deadline : Prop :=
  (∀ s : State, enabled .t1dl s = true ↔ s.hstep = 1) ∧
  ∀ s : State, s.hstep = 1 →
    (1 ≤ s.outf.toNat → s.outf.toNat ≤ s.cfg.clockFrequency / 100 →
      exec .t1dl s = .next { s with
        deadline := s.deadline + BitVec.ofNat 32 (s.cfg.clockFrequency / s.outf.toNat / 100), hstep := 2 }) ∧
    (s.outf = 0 → exec .t1dl s = .fault (.freqZero .t1dl))

/-- R92: with `HSTEP = 2`, `T2CLR` clears `PEND` whatever it is; under `reached` the next clock edge sets it again if
the deadline is reached by then, under `equal` only if it is the count. -/
def Obligations.T2clr_clears_the_pending_flag : Prop :=
  (∀ s : State, enabled .t2clr s = true ↔ s.hstep = 2) ∧
  ∀ s : State, s.hstep = 2 →
    exec .t2clr s = .next { s with pend := false, hstep := 3 } ∧
    (∀ t u, exec .t2clr s = .next t → exec .clk t = .next u → s.cfg.matchMode = .reached →
      (u.pend = true ↔ ((s.cnt + 1) - s.deadline).toNat < 2 ^ 31)) ∧
    (∀ t u, exec .t2clr s = .next t → exec .clk t = .next u → s.cfg.matchMode = .equal →
      (u.pend = true ↔ s.cnt + 1 = s.deadline))

/-- R93: with `HSTEP = 3`, `T3WR` writes `TABLE[IDX]` to `CMPREG`; `CMPACT`, and with it the pin, is unchanged; an
index of 100 or more is refused. -/
def Obligations.T3wr_writes_the_sample : Prop :=
  (∀ s : State, enabled .t3wr s = true ↔ s.hstep = 3) ∧
  ∀ s : State, s.hstep = 3 →
    (∀ h : s.idx.toNat < 100, exec .t3wr s = .next { s with cmpreg := s.cfg.table[s.idx.toNat], hstep := 4 }) ∧
    (100 ≤ s.idx.toNat → exec .t3wr s = .refused (.indexRange s.idx)) ∧
    (∀ t, exec .t3wr s = .next t → pwmOut t = pwmOut s ∧ writeTrace [.t3wr] s = [t.cmpreg])

/-- R94: with `HSTEP = 4`, `T4ADV` takes 99 to 0 and every other legal `i` to `i + 1`, and returns to thread context,
where commands are accepted again and a pending tick is taken again; an index of 100 or more is refused. -/
def Obligations.T4adv_advances_the_index : Prop :=
  (∀ s : State, enabled .t4adv s = true ↔ s.hstep = 4) ∧
  ∀ s : State, s.hstep = 4 →
    (s.idx.toNat < 99 → exec .t4adv s = .next { s with idx := s.idx + 1, hstep := 0 }) ∧
    (s.idx.toNat = 99 → exec .t4adv s = .next { s with idx := 0, hstep := 0 }) ∧
    (100 ≤ s.idx.toNat → exec .t4adv s = .refused (.indexRange s.idx)) ∧
    (∀ t, exec .t4adv s = .next t → cmdReady t = true ∧ enabled .tenter t = (s.run && s.pend))

/-- R95: in handler context the only enabled steps are the clock, the reset and the one micro-step `HSTEP` names; and
one tick, with any number of clock edges between its micro-steps, completes and has the effect R95 gives on the engine
registers; `PEND` after it is 1 exactly if an edge after `T2CLR` matched. -/
def Obligations.One_tick_with_any_clock_interleaving : Prop :=
  (∀ (i : Instr) (s : State), s.hstep ≠ 0 → enabled i s = true →
    i = .clk ∨ i = .reset ∨ (i = .t1dl ∧ s.hstep = 1) ∨ (i = .t2clr ∧ s.hstep = 2) ∨
      (i = .t3wr ∧ s.hstep = 3) ∨ (i = .t4adv ∧ s.hstep = 4)) ∧
  ∀ (s : State) (a b c d : Nat) (hi : s.idx.toNat < 100),
    s.run = true → s.pend = true → s.hstep = 0 →
    1 ≤ s.outf.toNat → s.outf.toNat ≤ s.cfg.clockFrequency / 100 →
    ∃ t, runInstrs (tickWithClks a b c d) s = .next t ∧
      t.deadline = s.deadline + BitVec.ofNat 32 (s.cfg.clockFrequency / s.outf.toNat / 100) ∧
      t.cmpreg = s.cfg.table[s.idx.toNat] ∧ t.idx.toNat = (s.idx.toNat + 1) % 100 ∧
      t.hstep = 0 ∧ t.run = true ∧ t.outf = s.outf ∧ t.cnt = s.cnt + BitVec.ofNat 32 (a + b + c + d) ∧
      (t.pend = true ↔ ∃ k, 1 ≤ k ∧ k ≤ c + d ∧
        deadlineMatch s.cfg.matchMode (s.cnt + BitVec.ofNat 32 (a + b + k)) t.deadline = true)

/-- R96: in every execution from index 0, whatever clock edges, commands, overruns, new `START` and `RESET` steps it has,
tick `k`, counted from the most recent `START`, writes `TABLE[(k - 1) mod 100]` and leaves `IDX = k mod 100`. Without a
`RESET`, from thread context to thread context, the ticks that write are the ticks that complete, each once and in order:
exactly one sample per tick. Without a new `START` either, the traces of R14 are those of one run. -/
def Obligations.Every_sample_once_and_in_order : Prop :=
  ∀ (is : List Instr) (s t : State), s.idx = 0 → runInstrs is s = .next t →
    t.idx.toNat = tickCount is s % 100 ∧
    (∀ k v, (k, v) ∈ tickWrites is s → 1 ≤ k ∧ s.cfg.sample ((k - 1) % 100) = some v) ∧
    (∀ k i, (k, i) ∈ tickIndices is s → 1 ≤ k ∧ i.toNat = k % 100) ∧
    (s.hstep = 0 → t.hstep = 0 → Instr.reset ∉ is →
      (tickWrites is s).map Prod.fst = (tickIndices is s).map Prod.fst ∧
      (writeTrace is s).length = (indexTrace is s).length) ∧
    (s.hstep = 0 → Instr.reset ∉ is → (∀ f, Instr.start f ∉ is) →
      (t.hstep = 0 → (writeTrace is s).length = tickCount is s) ∧
      (indexTrace is s).length = tickCount is s ∧ (writeTrace is s).length = is.count .t3wr ∧
      (∀ k v, (writeTrace is s)[k]? = some v → s.cfg.sample (k % 100) = some v) ∧
      (∀ k i, (indexTrace is s)[k]? = some i → i.toNat = (k + 1) % 100))

/-- R97, the sum form: in every execution without `START` and `RESET` the deadline after each `T1DL` is the starting
deadline plus the periods of the frequencies the `T1DL` steps so far have seen; the constant-frequency form is its
special case. -/
def Obligations.Deadlines_are_sums_of_periods : Prop :=
  ∀ (is : List Instr) (s t : State), Instr.reset ∉ is → (∀ f, Instr.start f ∉ is) →
    runInstrs is s = .next t →
    (∀ k d, (deadlineTrace is s)[k]? = some d →
      ∃ p, periodSum s.cfg ((frequencyTrace is s).take (k + 1)) = some p ∧ d = s.deadline + p) ∧
    (∃ p, periodSum s.cfg (frequencyTrace is s) = some p ∧ t.deadline = s.deadline + p) ∧
    ((∀ f, Instr.setf f ∉ is) →
      t.deadline = s.deadline + BitVec.ofNat 32 (is.count .t1dl * (s.cfg.clockFrequency / s.outf.toNat / 100)))

/-- R98: a `SETF g` in thread context leaves the scheduled deadline alone, and the next tick, whatever clock edges fall
into it or before it, adds `TickPeriod(g)` to it. -/
def Obligations.Frequency_change_takes_effect_at_the_next_tick : Prop :=
  ∀ (s t u v : State) (g : Word) (n a b c d : Nat),
    exec (.setf g) s = .next t → runInstrs (clks n) t = .next u →
    runInstrs (tickWithClks a b c d) u = .next v →
    t.deadline = s.deadline ∧ u.deadline = s.deadline ∧
    v.deadline = s.deadline + BitVec.ofNat 32 (s.cfg.clockFrequency / g.toNat / 100)

/-- The index and deadline guarantees are not empty: from every running state that meets the invariants, in thread
context, the no-overrun schedule `RUNTICKS k` of R79 reaches its end, in either match mode, with the index and the
deadline of R96 and R97. That `UNTIL_PEND` is bounded at one period of the counter is the model's own (log entry 17). -/
def Obligations.No_overrun_schedule_runs_every_tick : Prop :=
  ∀ (k : Nat) (s : State), Inv s → s.run = true → s.hstep = 0 →
    ∃ t, runTicks k s = .ok t ∧ Inv t ∧ t.run = true ∧ t.hstep = 0 ∧ t.outf = s.outf ∧
      t.idx.toNat = (s.idx.toNat + k) % 100 ∧
      t.deadline = s.deadline + BitVec.ofNat 32 (k * (s.cfg.clockFrequency / s.outf.toNat / 100))

/-! ## The clock event, the comparator and the carrier -/

/-- R100: `CLK` completes in every state, counts, compares the incremented count, and steps the carrier while
`CEN = 1`; nothing else changes. -/
def Obligations.Clock_edge : Prop :=
  ∀ s : State, 1 ≤ s.cfg.carrierPeriod → exec .clk s = .next { s with
    cnt := s.cnt + 1
    pend := if deadlineMatch s.cfg.matchMode (s.cnt + 1) s.deadline then true else s.pend
    ccnt :=
      if s.cen = true then if s.ccnt.toNat = s.cfg.carrierPeriod - 1 then 0 else s.ccnt + 1 else s.ccnt
    cmpact :=
      if s.cen = true then if s.ccnt.toNat = s.cfg.carrierPeriod - 1 then s.cmpreg else s.cmpact else s.cmpact }

/-- R102: under `reached` the comparator is true for a deadline that is the count or up to `2^31 - 1` cycles behind it,
and false for one up to `2^31` ahead; under `equal` it is equality; it is evaluated at every clock edge, on the
incremented count, and only ever sets the flag. -/
def Obligations.Comparator_half_range : Prop :=
  (∀ (c : Word) (k : Nat), k < 2 ^ 31 → deadlineMatch .reached c (c - BitVec.ofNat 32 k) = true) ∧
  (∀ (c : Word) (k : Nat), 1 ≤ k → k ≤ 2 ^ 31 → deadlineMatch .reached c (c + BitVec.ofNat 32 k) = false) ∧
  (∀ c d : Word, deadlineMatch .equal c d = true ↔ c = d) ∧
  (∀ s t : State, exec .clk s = .next t →
    (t.pend = true ↔ s.pend = true ∨ deadlineMatch s.cfg.matchMode (s.cnt + 1) s.deadline = true))

/-- The counter runs freely (R101): every step but `RESET` leaves `CNT` alone, and `CLK` adds 1 in every state. -/
def Obligations.Counter_is_free_running : Prop :=
  ∀ (i : Instr) (s t : State), exec i s = .next t → i ≠ .reset →
    t.cnt = if i = .clk then s.cnt + 1 else s.cnt

/-- The pending flag is sticky (R22, R29): only `CLK` sets it, only `T2CLR`, `START` and `RESET` clear it. -/
def Obligations.Pending_flag_has_one_setter : Prop :=
  ∀ (i : Instr) (s t : State), exec i s = .next t →
    (s.pend = false → t.pend = true → i = .clk) ∧
    (s.pend = true → t.pend = false → i = .t2clr ∨ i = .reset ∨ ∃ f, i = .start f)

/-- The tick comes at its deadline and not before (R102, R120): with the flag clear and the deadline `k` cycles ahead,
`k` between 1 and `2^31`, the flag is set by exactly the `k`-th clock edge, in either match mode. -/
def Obligations.Pending_exactly_at_the_deadline : Prop :=
  ∀ (s : State) (k n : Nat), s.pend = false → 1 ≤ k → k ≤ 2 ^ 31 → s.deadline = s.cnt + BitVec.ofNat 32 k →
    n ≤ k → ∃ t, runInstrs (clks n) s = .next t ∧ (t.pend = true ↔ n = k)

/-- R105, first sentence, and R103: in every execution that writes `CMPREG` in no way, from a carrier count `c`, the
value in `CMPREG` is in force from the `(CARRIER_PERIOD - c)`-th clock edge on, and the old value until then. -/
def Obligations.Sample_takes_effect_at_the_next_carrier_period : Prop :=
  ∀ (is : List Instr) (s t : State), s.cen = true → s.ccnt.toNat < s.cfg.carrierPeriod →
    s.cfg.carrierPeriod ≤ 2 ^ 16 → Instr.t3wr ∉ is → Instr.csetup ∉ is → Instr.reset ∉ is →
    runInstrs is s = .next t →
    t.cmpact = if is.count .clk < s.cfg.carrierPeriod - s.ccnt.toNat then s.cmpact else s.cmpreg

/-- R104: over every carrier period, from the edge that begins it, whatever other steps but `CSETUP` and `RESET` fall
into it, with `POL = 0`, `pwm_out` is 1 during exactly `CMPACT` cycles, the first ones of the period, those with
`CCNT < CMPACT`, and 0 during the others, and with `POL = 1` the levels are exchanged; the value in force throughout is
the `CMPREG` loaded at the period's start. -/
def Obligations.Duty_cycle_law : Prop :=
  ∀ s : State, s.cen = true → s.oen = true → 1 ≤ s.cfg.carrierPeriod → s.cfg.carrierPeriod ≤ 2 ^ 16 →
    s.ccnt.toNat = s.cfg.carrierPeriod - 1 → s.cmpreg.toNat < s.cfg.carrierPeriod →
    (∀ is t, Instr.csetup ∉ is → Instr.reset ∉ is → (Instr.clk :: is).count .clk = s.cfg.carrierPeriod →
      runInstrs (.clk :: is) s = .next t →
      pinTrace (.clk :: is) s = List.replicate s.cmpreg.toNat (.driven (!s.pol)) ++
        List.replicate (s.cfg.carrierPeriod - s.cmpreg.toNat) (.driven s.pol) ∧
      ∀ e ∈ completed (.clk :: is) s, e.after.cmpact = s.cmpreg ∧
        (pwmOut e.after = .driven (!s.pol) ↔ e.after.ccnt.toNat < e.after.cmpact.toNat) ∧
        (pwmOut e.after = .driven s.pol ↔ e.after.cmpact.toNat ≤ e.after.ccnt.toNat)) ∧
    (pinTrace (clks s.cfg.carrierPeriod) s).count (.driven (!s.pol)) = s.cmpreg.toNat ∧
    (pinTrace (clks s.cfg.carrierPeriod) s).count (.driven s.pol) = s.cfg.carrierPeriod - s.cmpreg.toNat

/-- R37: the output function and the request line; an undriven pin has no level. -/
def Obligations.Output_lines : Prop :=
  ∀ s : State,
    (s.oen = false → pwmOut s = .undriven) ∧
    (s.oen = true → s.pol = false → pwmOut s = .driven (decide (s.ccnt.toNat < s.cmpact.toNat))) ∧
    (s.oen = true → s.pol = true → pwmOut s = .driven (!decide (s.ccnt.toNat < s.cmpact.toNat))) ∧
    (tickIrq s = true ↔ s.run = true ∧ s.pend = true) ∧
    (cmdReady s = true ↔ s.hstep = 0)

/-! ## Whole-machine rules -/

/-- R38, the `w` entries: a step that completes changes no register that its column does not list, and it changes
neither `cfg` (with the table, R51) nor the environment's side. That `cfg` and the environment's side stand in `State`
at all, and that `RESET` leaves `commands` and `schedule` alone, are the model's own choices (log entries 1 and 19). -/
def Obligations.Access_matrix_frame : Prop :=
  ∀ (i : Instr) (s t : State), exec i s = .next t →
    (∀ r, r ∉ writes i → t.get r = s.get r) ∧
    t.cfg = s.cfg ∧ t.commands = s.commands ∧ t.schedule = s.schedule ∧ (i ≠ .reset → t.drawn = s.drawn)

/-- R38, the `r` entries: whether a step completes, faults or is refused, with which record, and every register it
writes, depends on nothing but `cfg` and the registers its column lists as read (and for `RESET` the draw, log entry 4);
a register written only in some cases may also be left as it was in both runs, and a `SEQUENCE` refusal of `CSETUP`
records `CEN` (R110), which `CSETUP` does not read. -/
def Obligations.Access_matrix_noninterference : Prop :=
  ∀ (i : Instr) (s s' : State), s.cfg = s'.cfg → (i = .reset → s.drawn = s'.drawn) →
    (∀ r ∈ reads i, s.get r = s'.get r) →
    (∀ t, exec i s = .next t → ∃ t', exec i s' = .next t' ∧
      ∀ r ∈ writes i, t.get r = t'.get r ∨ (t.get r = s.get r ∧ t'.get r = s'.get r)) ∧
    (∀ r, exec i s = .fault r → exec i s' = .fault r) ∧
    (∀ r, exec i s = .refused r → exec i s' = .refused r ∨
      (i = .csetup ∧ r = .sequence .csetup true s.cen ∧ exec i s' = .refused (.sequence .csetup true s'.cen)))

/-- The invariants I1 to I8 of R39 hold right after every reset. -/
def Obligations.Inv_holds_after_reset : Prop := ∀ s : State, AfterReset s → Inv s

/-- R39: from every state that meets I1 to I8, and not only from states a run reaches, a turn of the machine that
completes gives a state that meets them. -/
def Obligations.Inv_is_kept_by_every_turn : Prop :=
  ∀ s t : State, Inv s → step s = .next t → Inv t

/-- R39: I1 to I8 hold in every reachable state. -/
def Obligations.Inv_holds_in_every_reachable_state : Prop := ∀ s : State, Reachable s → Inv s

/-- The stops of R110: an enabled step from a state that meets the invariants completes, except for `CSETUP`,
`START` and `SETF` in exactly the cases of causes 2 to 4; causes 5 and 6 and the model's own refusals never arise. -/
def Obligations.Steps_stop_only_for_the_listed_causes : Prop :=
  ∀ (i : Instr) (s : State), Inv s → enabled i s = true →
    ((∃ t, exec i s = .next t) ↔
      ¬ ((i = .csetup ∧ s.run = true) ∨
        ∃ f, (i = .start f ∧ (s.run = true ∨ s.cen = false ∨ f = 0 ∨ s.cfg.clockFrequency / 100 < f.toNat)) ∨
          (i = .setf f ∧ (f = 0 ∨ s.cfg.clockFrequency / 100 < f.toNat)))) ∧
    (∀ r, exec i s = .refused r → r = .sequence i s.run s.cen) ∧
    (∀ r, exec i s = .fault r → r = .freqZero i ∨ ∃ f, r = .freqRange i f)

/-- Single writer (R63, R148): while the engine runs, `IDX`, `DEADLINE` and `CMPREG` change by the handler's own steps
only (and by a reset), and only in handler context. -/
def Obligations.Only_the_handler_writes_while_running : Prop :=
  ∀ (i : Instr) (s t : State), exec i s = .next t → s.run = true → i ≠ .reset →
    t.idx ≠ s.idx ∨ t.deadline ≠ s.deadline ∨ t.cmpreg ≠ s.cmpreg → i.inHandler = true ∧ s.hstep ≠ 0

/-- A stopped engine stays frozen (R83, R152): after `STOP`, until a `START`, no micro-step of the handler completes,
whatever the clock and the comparator do, and the index, the deadline and the frozen compare value stay; only
`CSETUP` or a reset changes the compare value. -/
def Obligations.Stopped_engine_stays_frozen : Prop :=
  ∀ (is : List Instr) (s t : State), s.run = false → s.hstep = 0 → Instr.reset ∉ is → (∀ f, Instr.start f ∉ is) →
    runInstrs is s = .next t →
    (∀ i ∈ is, i.inHandler = false) ∧ t.run = false ∧ t.hstep = 0 ∧ t.idx = s.idx ∧ t.deadline = s.deadline ∧
    (Instr.csetup ∉ is → t.cmpreg = s.cmpreg)

/-- R120 under `reached`: in an execution without `RESET` that is overrun-free as far as the registers show (modulo
`2^32`, log entry 24, so of more executions than R120 speaks of), from a state whose flag is clear only if its deadline is
ahead (and set from entry to `T2CLR`), the pending flag rises only at the very edge at which the count is the deadline. -/
def Obligations.Overrun_free_ticks_come_on_time : Prop :=
  ∀ (is : List Instr) (s : State), s.cfg.matchMode = .reached → Inv s →
    (s.pend = false → ¬ deadlineReached s) → (s.hstep = 1 ∨ s.hstep = 2 → s.pend = true) →
    Instr.reset ∉ is → OverrunFreeModulo is s →
    ∀ e ∈ completed is s, e.before.pend = false → e.after.pend = true → e.after.cnt = e.after.deadline

/-- R120 in either match mode, in an execution after a `START f`, up to the next `START` or `RESET`. Where every tick that
is served is served in time, the first tick becomes pending `TickPeriod(f)` clock edges after the `START`, tick `k + 1`
exactly `TickPeriod(f_k)` edges after tick `k`, `f_k` being what the `T1DL` of tick `k` saw, each at the edge that makes the
count its deadline; with a constant frequency tick `k` comes after `k` periods. Where the execution is overrun-free and has
no `STOP`, no tick is left out: the next one is not due yet, and with a constant frequency there is one tick for every
whole period. The tick rate `CLOCK_FREQUENCY / TickPeriod(f)` is at least `100 f`, and equal to it exactly when `100 f`
divides `CLOCK_FREQUENCY`. Lateness is told by counting clock edges (log entry 24), and then it is within one period as the
registers show it too. -/
def Obligations.Overrun_free_ticks_are_one_period_apart : Prop :=
  ∀ (is : List Instr) (s t u : State) (f : Word), GoodCfg s.cfg → exec (.start f) s = .next t →
    Instr.reset ∉ is → (∀ g, Instr.start g ∉ is) → ServedInTime is t → runInstrs is t = .next u →
    let period (g : Word) : Nat := s.cfg.clockFrequency / g.toNat / 100
    let due (k : Nat) : Nat := period f + (((frequencyTrace is t).take k).map period).sum
    (∀ k n, (pendingTrace is t)[k]? = some n → n = due k) ∧
    (∀ k n m, (pendingTrace is t)[k]? = some n → (pendingTrace is t)[k + 1]? = some m →
      ∃ g, (frequencyTrace is t)[k]? = some g ∧ m = n + period g) ∧
    (∀ e ∈ completed is t, e.pends = true → e.after.cnt = e.after.deadline) ∧
    (u.pend = false → (pendingTrace is t).length = (frequencyTrace is t).length ∧
      is.count .clk < due (frequencyTrace is t).length) ∧
    ((∀ g, Instr.setf g ∉ is) → ∀ k n, (pendingTrace is t)[k]? = some n → n = (k + 1) * period f) ∧
    (OverrunFree is t → Instr.stop ∉ is →
      is.count .clk < due (frequencyTrace is t).length + (if u.pend = true ∧ u.hstep ≠ 2 then period u.outf else 0) ∧
      ((∀ g, Instr.setf g ∉ is) → (pendingTrace is t).length = is.count .clk / period f)) ∧
    (period f * (100 * f.toNat) ≤ s.cfg.clockFrequency ∧
      (period f * (100 * f.toNat) = s.cfg.clockFrequency ↔ 100 * f.toNat ∣ s.cfg.clockFrequency)) ∧
    OverrunFreeModulo is t

/-- The catch-up of R119 and the lost tick of R156: after a `T2CLR` that comes when the new deadline is already
reached, the next clock edge makes the next tick pending under `reached`; under `equal` it does not, and the tick is
lost until the count comes round to the deadline. -/
def Obligations.Late_tick_catches_up_or_is_lost : Prop :=
  ∀ (s t : State) (n : Nat), exec .t2clr s = .next t → (s.cnt - s.deadline).toNat + 1 < 2 ^ 31 → 1 ≤ n →
    (s.cfg.matchMode = .reached → ∃ u, runInstrs (clks n) t = .next u ∧ u.pend = true) ∧
    (s.cfg.matchMode = .equal → n ≤ 2 ^ 32 - (s.cnt - s.deadline).toNat → ∃ u, runInstrs (clks n) t = .next u ∧
      (u.pend = true ↔ n = 2 ^ 32 - (s.cnt - s.deadline).toNat))

/-- Liveness (R106, R155): in every infinite execution in which the engine runs and keeps running, the two fairness
assumptions F1 and F2 and nothing else make every sample of the table be written infinitely often. -/
def Obligations.Waveform_repeats_for_ever : Prop :=
  ∀ (steps : Nat → Instr) (states : Nat → State), IsExecution steps states → Inv (states 0) →
    (states 0).run = true → (∀ n, keepsRunning (steps n) = true) → ClockFair steps → HandlerFair steps states →
    ∀ (j n : Nat), j < 100 → ∃ m, n ≤ m ∧ steps m = .t3wr ∧ (states m).idx.toNat = j ∧
      some (states (m + 1)).cmpreg = (states m).cfg.sample j

/-! ## Turns of the machine -/

/-- A turn of the host in thread context runs the decoded command (R70, R75): the turn is taken off the schedule, the
word off the port, and the command's own effect follows. That turns are listed in `schedule` and words in `commands`,
and go off these lists so, is the model's own bookkeeping (log entries 5 and 6). -/
def Obligations.Step_runs_the_decoded_command : Prop :=
  ∀ (s : State) (rest : List Agent) (w : CmdWord) (ws : List CmdWord) (i : Instr),
    GoodCfg s.cfg → s.hstep = 0 → s.schedule = .host :: rest → s.commands = w :: ws → decode w = some i →
    step s = exec i { s with schedule := rest, commands := ws }

/-- A word with a reserved op is refused when it is issued (R74), and the word is recorded. The lists from which the
turn and the word come are the model's own (log entries 5 and 6). -/
def Obligations.Step_refuses_a_reserved_word : Prop :=
  ∀ (s : State) (rest : List Agent) (w : CmdWord) (ws : List CmdWord),
    GoodCfg s.cfg → s.hstep = 0 → s.schedule = .host :: rest → s.commands = w :: ws →
    5 ≤ (w.extractLsb' 32 3).toNat → step s = .refused (.illegalCommand w)

/-- A command presented in handler context is held, not lost and not executed (R70): the host's turn passes and
changes no register, and the word still stands on the port. That such a turn passes as a next state, with the schedule
shortened, is the model's own stutter (log entries 5 and 6). -/
def Obligations.Step_holds_a_command_in_handler_context : Prop :=
  ∀ (s : State) (rest : List Agent), GoodCfg s.cfg → s.hstep ≠ 0 → s.schedule = .host :: rest →
    step s = .next { s with schedule := rest } ∧ presented { s with schedule := rest } = presented s

/-- The turns of the other agents (R13, R76): the handler performs its enabled micro-step and otherwise nothing, the
clock performs `CLK`, the reset line `RESET`. That turns are listed in `schedule`, and that the handler's turn with no
enabled micro-step passes as a next state, is the model's own choice (log entry 5). -/
def Obligations.Step_of_the_other_agents : Prop :=
  ∀ (s : State) (rest : List Agent), GoodCfg s.cfg →
    (s.schedule = .clock :: rest → step s = exec .clk { s with schedule := rest }) ∧
    (s.schedule = .reset :: rest → step s = exec .reset { s with schedule := rest }) ∧
    (s.schedule = .handler :: rest →
      (∀ i, i.inHandler = true → enabled i s = true → step s = exec i { s with schedule := rest }) ∧
      ((∀ i, i.inHandler = true → enabled i s = false) → step s = .next { s with schedule := rest }))

/-- R12 and R106: whatever the schedule and the host are, and wherever the free values come in, a turn of the machine
is one enabled step of R12 on the same registers, or changes no register, or is the refusal of an illegal word. The turn
that changes no register is the model's own stutter, which R12 and R106 do not have (log entries 5 and 6). -/
def Obligations.Every_turn_is_one_enabled_step : Prop :=
  ∀ s : State, GoodCfg s.cfg →
    (∃ i u, SameRegisters s u ∧ enabled i u = true ∧ step s = exec i u) ∨
    (∃ t, SameRegisters s t ∧ step s = .next t) ∨
    (∃ w, s.hstep = 0 ∧ decode w = none ∧ step s = .refused (.illegalCommand w))

/-- R106 and R116: every step that is enabled can be the next one, in every state; in particular a requested tick and
a presented command can go in either order. The lists that bring a step about are the model's own (log entries 5
and 6). -/
def Obligations.Every_enabled_step_can_go_next : Prop :=
  ∀ (i : Instr) (s : State), GoodCfg s.cfg → enabled i s = true →
    ∃ (a : Agent) (ws : List CmdWord),
      step { s with schedule := a :: s.schedule, commands := ws ++ s.commands } = exec i s

/-- The placing of a table word (log entries 12 and 13): with a good `cfg`, the next step after `withFetchWord` runs
exactly the command the word decodes to, in thread context. The model's own convention. -/
def Obligations.Placed_word_runs_next : Prop :=
  ∀ (s : State) (nbits w : Nat) (i : Instr), GoodCfg s.cfg → decodeTableWord nbits w = some i →
    step (s.withFetchWord nbits w) = exec i { s with hstep := 0 }

/-- The model's own refusal of steps that do not exist (log entry 7): `exec` refuses a step by name exactly where the
spec does not enable it (R70, R76), and a turn of the machine never ends so. -/
def Obligations.Disabled_steps_are_refused_by_exec_only : Prop :=
  (∀ (i : Instr) (s : State), enabled i s = false ↔ exec i s = .refused (.notEnabled i)) ∧
  (∀ (i j : Instr) (s : State), exec i s = .refused (.notEnabled j) → j = i) ∧
  ∀ (i : Instr) (s : State), step s ≠ .refused (.notEnabled i)

/-- What the model does in states no run reaches (log entries 9 and 15): `T1DL` with a frequency above `F_MAX`, a zero
interval, faults with `FREQ_RANGE` and computes no deadline (R147); with `HSTEP` above 4 only the clock and the reset are
enabled. -/
def Obligations.Unreachable_states : Prop :=
  (∀ s : State, GoodCfg s.cfg → s.hstep = 1 → s.cfg.clockFrequency / 100 < s.outf.toNat →
    exec .t1dl s = .fault (.freqRange .t1dl s.outf)) ∧
  (∀ (i : Instr) (s : State), 5 ≤ s.hstep.toNat → enabled i s = true → i = .clk ∨ i = .reset)

/-- `UNTIL_PEND` of R79 always ends (log entry 17): whatever the deadline and the match mode, one period of the
counter brings a match. -/
def Obligations.Until_pend_always_ends : Prop :=
  ∀ s : State, ∃ n, n ≤ 2 ^ 32 ∧ ∃ t, untilPend s = .ok t ∧ runInstrs (clks n) s = .next t ∧ t.pend = true
end

