-- ==== Sys2Proof/Laws/State.lean ====
section
/-! SUPPORT. One lemma per field per named update of the state, so that no proof unfolds a record update. -/

namespace Sys2Proof.Machine

variable (s : State) (k : HandlerStep) (w : CmdWord) (c d : Word)

@[simp] theorem setHstep_run  : (setHstep k s).run = s.run := rfl
@[simp] theorem setHstep_idx  : (setHstep k s).idx = s.idx := rfl
@[simp] theorem setHstep_outf  : (setHstep k s).outf = s.outf := rfl
@[simp] theorem setHstep_deadline  : (setHstep k s).deadline = s.deadline := rfl
@[simp] theorem setHstep_cnt  : (setHstep k s).cnt = s.cnt := rfl
@[simp] theorem setHstep_pend  : (setHstep k s).pend = s.pend := rfl
@[simp] theorem setHstep_hstep  : (setHstep k s).hstep = k := rfl
@[simp] theorem setHstep_cen  : (setHstep k s).cen = s.cen := rfl
@[simp] theorem setHstep_ccnt  : (setHstep k s).ccnt = s.ccnt := rfl
@[simp] theorem setHstep_cmpreg  : (setHstep k s).cmpreg = s.cmpreg := rfl
@[simp] theorem setHstep_cmpact  : (setHstep k s).cmpact = s.cmpact := rfl
@[simp] theorem setHstep_oen  : (setHstep k s).oen = s.oen := rfl
@[simp] theorem setHstep_pol  : (setHstep k s).pol = s.pol := rfl
@[simp] theorem setHstep_cfg  : (setHstep k s).cfg = s.cfg := rfl
@[simp] theorem setHstep_commands  : (setHstep k s).commands = s.commands := rfl
@[simp] theorem setHstep_schedule  : (setHstep k s).schedule = s.schedule := rfl
@[simp] theorem setHstep_drawn  : (setHstep k s).drawn = s.drawn := rfl

@[simp] theorem enterHandler_run  : (enterHandler s).run = s.run := rfl
@[simp] theorem enterHandler_idx  : (enterHandler s).idx = s.idx := rfl
@[simp] theorem enterHandler_outf  : (enterHandler s).outf = s.outf := rfl
@[simp] theorem enterHandler_deadline  : (enterHandler s).deadline = s.deadline := rfl
@[simp] theorem enterHandler_cnt  : (enterHandler s).cnt = s.cnt := rfl
@[simp] theorem enterHandler_pend  : (enterHandler s).pend = s.pend := rfl
@[simp] theorem enterHandler_hstep  : (enterHandler s).hstep = 1 := rfl
@[simp] theorem enterHandler_cen  : (enterHandler s).cen = s.cen := rfl
@[simp] theorem enterHandler_ccnt  : (enterHandler s).ccnt = s.ccnt := rfl
@[simp] theorem enterHandler_cmpreg  : (enterHandler s).cmpreg = s.cmpreg := rfl
@[simp] theorem enterHandler_cmpact  : (enterHandler s).cmpact = s.cmpact := rfl
@[simp] theorem enterHandler_oen  : (enterHandler s).oen = s.oen := rfl
@[simp] theorem enterHandler_pol  : (enterHandler s).pol = s.pol := rfl
@[simp] theorem enterHandler_cfg  : (enterHandler s).cfg = s.cfg := rfl
@[simp] theorem enterHandler_commands  : (enterHandler s).commands = s.commands := rfl
@[simp] theorem enterHandler_schedule  : (enterHandler s).schedule = s.schedule := rfl
@[simp] theorem enterHandler_drawn  : (enterHandler s).drawn = s.drawn := rfl

@[simp] theorem returnFromHandler_run  : (returnFromHandler s).run = s.run := rfl
@[simp] theorem returnFromHandler_idx  : (returnFromHandler s).idx = s.idx := rfl
@[simp] theorem returnFromHandler_outf  : (returnFromHandler s).outf = s.outf := rfl
@[simp] theorem returnFromHandler_deadline  : (returnFromHandler s).deadline = s.deadline := rfl
@[simp] theorem returnFromHandler_cnt  : (returnFromHandler s).cnt = s.cnt := rfl
@[simp] theorem returnFromHandler_pend  : (returnFromHandler s).pend = s.pend := rfl
@[simp] theorem returnFromHandler_hstep  : (returnFromHandler s).hstep = 0 := rfl
@[simp] theorem returnFromHandler_cen  : (returnFromHandler s).cen = s.cen := rfl
@[simp] theorem returnFromHandler_ccnt  : (returnFromHandler s).ccnt = s.ccnt := rfl
@[simp] theorem returnFromHandler_cmpreg  : (returnFromHandler s).cmpreg = s.cmpreg := rfl
@[simp] theorem returnFromHandler_cmpact  : (returnFromHandler s).cmpact = s.cmpact := rfl
@[simp] theorem returnFromHandler_oen  : (returnFromHandler s).oen = s.oen := rfl
@[simp] theorem returnFromHandler_pol  : (returnFromHandler s).pol = s.pol := rfl
@[simp] theorem returnFromHandler_cfg  : (returnFromHandler s).cfg = s.cfg := rfl
@[simp] theorem returnFromHandler_commands  : (returnFromHandler s).commands = s.commands := rfl
@[simp] theorem returnFromHandler_schedule  : (returnFromHandler s).schedule = s.schedule := rfl
@[simp] theorem returnFromHandler_drawn  : (returnFromHandler s).drawn = s.drawn := rfl

@[simp] theorem clearPend_run  : (clearPend s).run = s.run := rfl
@[simp] theorem clearPend_idx  : (clearPend s).idx = s.idx := rfl
@[simp] theorem clearPend_outf  : (clearPend s).outf = s.outf := rfl
@[simp] theorem clearPend_deadline  : (clearPend s).deadline = s.deadline := rfl
@[simp] theorem clearPend_cnt  : (clearPend s).cnt = s.cnt := rfl
@[simp] theorem clearPend_pend  : (clearPend s).pend = false := rfl
@[simp] theorem clearPend_hstep  : (clearPend s).hstep = s.hstep := rfl
@[simp] theorem clearPend_cen  : (clearPend s).cen = s.cen := rfl
@[simp] theorem clearPend_ccnt  : (clearPend s).ccnt = s.ccnt := rfl
@[simp] theorem clearPend_cmpreg  : (clearPend s).cmpreg = s.cmpreg := rfl
@[simp] theorem clearPend_cmpact  : (clearPend s).cmpact = s.cmpact := rfl
@[simp] theorem clearPend_oen  : (clearPend s).oen = s.oen := rfl
@[simp] theorem clearPend_pol  : (clearPend s).pol = s.pol := rfl
@[simp] theorem clearPend_cfg  : (clearPend s).cfg = s.cfg := rfl
@[simp] theorem clearPend_commands  : (clearPend s).commands = s.commands := rfl
@[simp] theorem clearPend_schedule  : (clearPend s).schedule = s.schedule := rfl
@[simp] theorem clearPend_drawn  : (clearPend s).drawn = s.drawn := rfl

@[simp] theorem setupCarrier_run  : (setupCarrier s).run = s.run := rfl
@[simp] theorem setupCarrier_idx  : (setupCarrier s).idx = s.idx := rfl
@[simp] theorem setupCarrier_outf  : (setupCarrier s).outf = s.outf := rfl
@[simp] theorem setupCarrier_deadline  : (setupCarrier s).deadline = s.deadline := rfl
@[simp] theorem setupCarrier_cnt  : (setupCarrier s).cnt = s.cnt := rfl
@[simp] theorem setupCarrier_pend  : (setupCarrier s).pend = s.pend := rfl
@[simp] theorem setupCarrier_hstep  : (setupCarrier s).hstep = s.hstep := rfl
@[simp] theorem setupCarrier_cen  : (setupCarrier s).cen = true := rfl
@[simp] theorem setupCarrier_ccnt  : (setupCarrier s).ccnt = 0 := rfl
@[simp] theorem setupCarrier_cmpreg  : (setupCarrier s).cmpreg = 0 := rfl
@[simp] theorem setupCarrier_cmpact  : (setupCarrier s).cmpact = 0 := rfl
@[simp] theorem setupCarrier_oen  : (setupCarrier s).oen = true := rfl
@[simp] theorem setupCarrier_pol  : (setupCarrier s).pol = decide (s.cfg.polarity = .activeLow) := rfl
@[simp] theorem setupCarrier_cfg  : (setupCarrier s).cfg = s.cfg := rfl
@[simp] theorem setupCarrier_commands  : (setupCarrier s).commands = s.commands := rfl
@[simp] theorem setupCarrier_schedule  : (setupCarrier s).schedule = s.schedule := rfl
@[simp] theorem setupCarrier_drawn  : (setupCarrier s).drawn = s.drawn := rfl

@[simp] theorem tickTimerEdge_run  : (tickTimerEdge s).run = s.run := rfl
@[simp] theorem tickTimerEdge_idx  : (tickTimerEdge s).idx = s.idx := rfl
@[simp] theorem tickTimerEdge_outf  : (tickTimerEdge s).outf = s.outf := rfl
@[simp] theorem tickTimerEdge_deadline  : (tickTimerEdge s).deadline = s.deadline := rfl
@[simp] theorem tickTimerEdge_cnt  : (tickTimerEdge s).cnt = s.cnt + 1 := rfl
@[simp] theorem tickTimerEdge_pend  : (tickTimerEdge s).pend = comparedPend s (s.cnt + 1) := rfl
@[simp] theorem tickTimerEdge_hstep  : (tickTimerEdge s).hstep = s.hstep := rfl
@[simp] theorem tickTimerEdge_cen  : (tickTimerEdge s).cen = s.cen := rfl
@[simp] theorem tickTimerEdge_ccnt  : (tickTimerEdge s).ccnt = s.ccnt := rfl
@[simp] theorem tickTimerEdge_cmpreg  : (tickTimerEdge s).cmpreg = s.cmpreg := rfl
@[simp] theorem tickTimerEdge_cmpact  : (tickTimerEdge s).cmpact = s.cmpact := rfl
@[simp] theorem tickTimerEdge_oen  : (tickTimerEdge s).oen = s.oen := rfl
@[simp] theorem tickTimerEdge_pol  : (tickTimerEdge s).pol = s.pol := rfl
@[simp] theorem tickTimerEdge_cfg  : (tickTimerEdge s).cfg = s.cfg := rfl
@[simp] theorem tickTimerEdge_commands  : (tickTimerEdge s).commands = s.commands := rfl
@[simp] theorem tickTimerEdge_schedule  : (tickTimerEdge s).schedule = s.schedule := rfl
@[simp] theorem tickTimerEdge_drawn  : (tickTimerEdge s).drawn = s.drawn := rfl

@[simp] theorem resetRegisters_run  : (resetRegisters c d s).run = false := rfl
@[simp] theorem resetRegisters_idx  : (resetRegisters c d s).idx = 0 := rfl
@[simp] theorem resetRegisters_outf  : (resetRegisters c d s).outf = s.cfg.defaultFrequency := rfl
@[simp] theorem resetRegisters_deadline  : (resetRegisters c d s).deadline = d := rfl
@[simp] theorem resetRegisters_cnt  : (resetRegisters c d s).cnt = c := rfl
@[simp] theorem resetRegisters_pend  : (resetRegisters c d s).pend = false := rfl
@[simp] theorem resetRegisters_hstep  : (resetRegisters c d s).hstep = 0 := rfl
@[simp] theorem resetRegisters_cen  : (resetRegisters c d s).cen = false := rfl
@[simp] theorem resetRegisters_ccnt  : (resetRegisters c d s).ccnt = 0 := rfl
@[simp] theorem resetRegisters_cmpreg  : (resetRegisters c d s).cmpreg = 0 := rfl
@[simp] theorem resetRegisters_cmpact  : (resetRegisters c d s).cmpact = 0 := rfl
@[simp] theorem resetRegisters_oen  : (resetRegisters c d s).oen = false := rfl
@[simp] theorem resetRegisters_pol  : (resetRegisters c d s).pol = false := rfl
@[simp] theorem resetRegisters_cfg  : (resetRegisters c d s).cfg = s.cfg := rfl
@[simp] theorem resetRegisters_commands  : (resetRegisters c d s).commands = s.commands := rfl
@[simp] theorem resetRegisters_schedule  : (resetRegisters c d s).schedule = s.schedule := rfl
@[simp] theorem resetRegisters_drawn  : (resetRegisters c d s).drawn = s.drawn := rfl

@[simp] theorem countReset_run  : (countReset s).run = s.run := rfl
@[simp] theorem countReset_idx  : (countReset s).idx = s.idx := rfl
@[simp] theorem countReset_outf  : (countReset s).outf = s.outf := rfl
@[simp] theorem countReset_deadline  : (countReset s).deadline = s.deadline := rfl
@[simp] theorem countReset_cnt  : (countReset s).cnt = s.cnt := rfl
@[simp] theorem countReset_pend  : (countReset s).pend = s.pend := rfl
@[simp] theorem countReset_hstep  : (countReset s).hstep = s.hstep := rfl
@[simp] theorem countReset_cen  : (countReset s).cen = s.cen := rfl
@[simp] theorem countReset_ccnt  : (countReset s).ccnt = s.ccnt := rfl
@[simp] theorem countReset_cmpreg  : (countReset s).cmpreg = s.cmpreg := rfl
@[simp] theorem countReset_cmpact  : (countReset s).cmpact = s.cmpact := rfl
@[simp] theorem countReset_oen  : (countReset s).oen = s.oen := rfl
@[simp] theorem countReset_pol  : (countReset s).pol = s.pol := rfl
@[simp] theorem countReset_cfg  : (countReset s).cfg = s.cfg := rfl
@[simp] theorem countReset_commands  : (countReset s).commands = s.commands := rfl
@[simp] theorem countReset_schedule  : (countReset s).schedule = s.schedule := rfl

@[simp] theorem placeCommand_run  : (placeCommand w s).run = s.run := rfl
@[simp] theorem placeCommand_idx  : (placeCommand w s).idx = s.idx := rfl
@[simp] theorem placeCommand_outf  : (placeCommand w s).outf = s.outf := rfl
@[simp] theorem placeCommand_deadline  : (placeCommand w s).deadline = s.deadline := rfl
@[simp] theorem placeCommand_cnt  : (placeCommand w s).cnt = s.cnt := rfl
@[simp] theorem placeCommand_pend  : (placeCommand w s).pend = s.pend := rfl
@[simp] theorem placeCommand_hstep  : (placeCommand w s).hstep = 0 := rfl
@[simp] theorem placeCommand_cen  : (placeCommand w s).cen = s.cen := rfl
@[simp] theorem placeCommand_ccnt  : (placeCommand w s).ccnt = s.ccnt := rfl
@[simp] theorem placeCommand_cmpreg  : (placeCommand w s).cmpreg = s.cmpreg := rfl
@[simp] theorem placeCommand_cmpact  : (placeCommand w s).cmpact = s.cmpact := rfl
@[simp] theorem placeCommand_oen  : (placeCommand w s).oen = s.oen := rfl
@[simp] theorem placeCommand_pol  : (placeCommand w s).pol = s.pol := rfl
@[simp] theorem placeCommand_cfg  : (placeCommand w s).cfg = s.cfg := rfl
@[simp] theorem placeCommand_commands  : (placeCommand w s).commands = w :: s.commands := rfl
@[simp] theorem placeCommand_schedule  : (placeCommand w s).schedule = .host :: s.schedule := rfl
@[simp] theorem placeCommand_drawn  : (placeCommand w s).drawn = s.drawn := rfl

@[simp] theorem carrierEdge_run : (carrierEdge s).run = s.run := by
  unfold carrierEdge; split <;> [split; skip] <;> rfl
@[simp] theorem carrierEdge_idx : (carrierEdge s).idx = s.idx := by
  unfold carrierEdge; split <;> [split; skip] <;> rfl
@[simp] theorem carrierEdge_outf : (carrierEdge s).outf = s.outf := by
  unfold carrierEdge; split <;> [split; skip] <;> rfl
@[simp] theorem carrierEdge_deadline : (carrierEdge s).deadline = s.deadline := by
  unfold carrierEdge; split <;> [split; skip] <;> rfl
@[simp] theorem carrierEdge_cnt : (carrierEdge s).cnt = s.cnt := by
  unfold carrierEdge; split <;> [split; skip] <;> rfl
@[simp] theorem carrierEdge_pend : (carrierEdge s).pend = s.pend := by
  unfold carrierEdge; split <;> [split; skip] <;> rfl
@[simp] theorem carrierEdge_hstep : (carrierEdge s).hstep = s.hstep := by
  unfold carrierEdge; split <;> [split; skip] <;> rfl
@[simp] theorem carrierEdge_cen : (carrierEdge s).cen = s.cen := by
  unfold carrierEdge; split <;> [split; skip] <;> rfl
@[simp] theorem carrierEdge_cmpreg : (carrierEdge s).cmpreg = s.cmpreg := by
  unfold carrierEdge; split <;> [split; skip] <;> rfl
@[simp] theorem carrierEdge_oen : (carrierEdge s).oen = s.oen := by
  unfold carrierEdge; split <;> [split; skip] <;> rfl
@[simp] theorem carrierEdge_pol : (carrierEdge s).pol = s.pol := by
  unfold carrierEdge; split <;> [split; skip] <;> rfl
@[simp] theorem carrierEdge_cfg : (carrierEdge s).cfg = s.cfg := by
  unfold carrierEdge; split <;> [split; skip] <;> rfl
@[simp] theorem carrierEdge_commands : (carrierEdge s).commands = s.commands := by
  unfold carrierEdge; split <;> [split; skip] <;> rfl
@[simp] theorem carrierEdge_schedule : (carrierEdge s).schedule = s.schedule := by
  unfold carrierEdge; split <;> [split; skip] <;> rfl
@[simp] theorem carrierEdge_drawn : (carrierEdge s).drawn = s.drawn := by
  unfold carrierEdge; split <;> [split; skip] <;> rfl

theorem carrierEdge_ccnt : (carrierEdge s).ccnt =
    if s.cen then if s.ccnt.toNat + 1 = s.cfg.carrierPeriod then 0 else s.ccnt + 1 else s.ccnt := by
  unfold carrierEdge; split <;> [split; skip] <;> rfl

theorem carrierEdge_cmpact : (carrierEdge s).cmpact =
    if s.cen ∧ s.ccnt.toNat + 1 = s.cfg.carrierPeriod then s.cmpreg else s.cmpact := by
  unfold carrierEdge; split <;> [split; skip] <;> simp_all

end Sys2Proof.Machine
end

