-- ==== Sys2Proof/Laws/Ops.lean ====
section
/-! SUPPORT. What each shared operation can do, said once. -/

namespace Sys2Proof.Machine

/-- A step completes only where it is enabled, and then it is its effect. -/
theorem whenEnabled_next {i : Instr} {s t : State} {k : Result} :
    whenEnabled i s k = .next t ↔ enabled i s = true ∧ k = .next t := by
  unfold whenEnabled
  split <;> simp_all

theorem whenEnabled_of_enabled {i : Instr} {s : State} (h : enabled i s = true) (k : Result) :
    whenEnabled i s k = k := by simp [whenEnabled, h]

theorem whenEnabled_of_disabled {i : Instr} {s : State} (h : enabled i s = false) (k : Result) :
    whenEnabled i s k = .refused (.notEnabled i) := by simp [whenEnabled, h]

@[simp] theorem cmdReady_iff (s : State) : cmdReady s = true ↔ s.hstep = 0 := by simp [cmdReady]

theorem tickPeriod_of_ne_zero {c : Cfg} {f : Word} (h : f ≠ 0) :
    c.tickPeriod f = some (BitVec.ofNat 32 (c.clockFrequency / f.toNat / 100)) := if_neg h

@[simp] theorem tickPeriod_zero (c : Cfg) : c.tickPeriod 0#32 = none := rfl

theorem tickPeriod_some {c : Cfg} {f p : Word} (h : c.tickPeriod f = some p) :
    f ≠ 0 ∧ p = BitVec.ofNat 32 (c.clockFrequency / f.toNat / 100) := by
  unfold Cfg.tickPeriod at h
  split at h <;> simp_all

theorem ne_zero_of_one_le {f : Word} (h : 1 ≤ f.toNat) : f ≠ 0 := by
  rintro rfl
  simp at h

/-- Everything the frequency check can answer. -/
theorem withLegalFrequency_eq (i : Instr) (f : Word) (s : State) (k : Word → Result) :
    withLegalFrequency i f s k =
      if f = 0 then .fault (.freqZero i)
      else if s.cfg.fMax < f.toNat then .fault (.freqRange i f)
      else k (BitVec.ofNat 32 (s.cfg.clockFrequency / f.toNat / 100)) := by
  unfold withLegalFrequency Cfg.tickPeriod
  split_ifs <;> rfl

/-- The frequency check lets a step go on exactly when the frequency is legal (R10, R85). -/
theorem withLegalFrequency_next {i : Instr} {f : Word} {s t : State} {k : Word → Result}
    (h : withLegalFrequency i f s k = .next t) :
    s.cfg.legalFrequency f ∧ k (BitVec.ofNat 32 (s.cfg.clockFrequency / f.toNat / 100)) = .next t := by
  unfold withLegalFrequency at h
  split at h
  · cases h
  · rename_i p hp
    obtain ⟨hf, rfl⟩ := tickPeriod_some hp
    split at h
    · cases h
    · rename_i hle
      refine ⟨⟨?_, by omega⟩, h⟩
      rcases Nat.eq_zero_or_pos f.toNat with h0 | h0
      · exact absurd (BitVec.eq_of_toNat_eq (by simpa using h0)) hf
      · exact h0

theorem withLegalFrequency_of_legal {i : Instr} {f : Word} {s : State} (k : Word → Result)
    (h : s.cfg.legalFrequency f) :
    withLegalFrequency i f s k = k (BitVec.ofNat 32 (s.cfg.clockFrequency / f.toNat / 100)) := by
  have hle : ¬ s.cfg.fMax < f.toNat := by have := h.2; omega
  simp [withLegalFrequency, tickPeriod_of_ne_zero (ne_zero_of_one_le h.1), hle]

/-- `FREQ_ZERO` and `FREQ_RANGE` (R85). -/
theorem withLegalFrequency_zero {i : Instr} {s : State} (k : Word → Result) :
    withLegalFrequency i 0 s k = .fault (.freqZero i) := rfl

theorem withLegalFrequency_high {i : Instr} {f : Word} {s : State} (k : Word → Result)
    (h : s.cfg.fMax < f.toNat) : withLegalFrequency i f s k = .fault (.freqRange i f) := by
  have h0 : f ≠ 0 := ne_zero_of_one_le (by omega)
  simp [withLegalFrequency, tickPeriod_of_ne_zero h0, h]

/-- The table read has a value exactly for the 100 indices (R51). -/
theorem sample_of_lt {c : Cfg} {i : Nat} (h : i < 100) : c.sample i = some c.table[i] := by
  simp [Cfg.sample, h]

theorem sample_of_ge {c : Cfg} {i : Nat} (h : 100 ≤ i) : c.sample i = none := by
  simp [Cfg.sample, h]

theorem sample_some {c : Cfg} {i : Nat} {v : Sample} (h : c.sample i = some v) : i < 100 := by
  by_contra hc
  simp [sample_of_ge (c := c) (i := i) (by omega)] at h

/-- One advance of a legal index is one step modulo 100 (R94). -/
theorem nextIndex_toNat {i : Index} (h : i.toNat < 100) : (nextIndex i).toNat = (i.toNat + 1) % 100 := by
  unfold nextIndex
  split
  · simp_all
  · rw [BitVec.toNat_add]
    simp
    omega

theorem SameRegisters.refl (s : State) : SameRegisters s s := rfl

theorem SameRegisters.trans {s t u : State} (h : SameRegisters s t) (h' : SameRegisters t u) :
    SameRegisters s u := by
  unfold SameRegisters at *
  rw [h', h]

/-- Taking a turn off the schedule touches no register. -/
theorem takeAgent_same (s : State) : SameRegisters s (takeAgent s).2 := by
  unfold takeAgent
  split <;> rfl

theorem releasePort_same (s : State) : SameRegisters s (releasePort s) := by
  unfold releasePort
  split <;> rfl

/-- Enabling depends on the registers only. -/
theorem enabled_congr {s t : State} (h : SameRegisters s t) (i : Instr) : enabled i t = enabled i s := by
  rw [h]; rfl

/-- The decoder answers commands only (R75). -/
theorem decode_wellFormed {w : CmdWord} {i : Instr} (h : decode w = some i) : i.wellFormed = true := by
  unfold decode commandOf at h
  split at h <;> cases h <;> rfl

/-- A command is enabled exactly in thread context (R70). -/
theorem enabled_of_wellFormed {i : Instr} (h : i.wellFormed = true) (s : State) : enabled i s = cmdReady s := by
  cases i <;> first | rfl | cases h

/-- The host's turn issues the presented word in thread context, and holds it in handler context (R70). -/
theorem hostTurn_ready {s : State} {w : CmdWord} (h : s.hstep = 0) (hw : presented s = some w) :
    hostTurn s = issue w s := by
  simp only [hostTurn, (cmdReady_iff s).2 h, hw, if_true]

theorem hostTurn_held {s : State} (h : s.hstep ≠ 0) : hostTurn s = .idle s := by
  unfold hostTurn
  rw [if_neg (by simpa using h)]

/-- A turn is an enabled step of R12 in the same registers, or nothing, or an illegal word presented in thread
context. -/
theorem nextTurn_cases (s : State) :
    match nextTurn s with
    | .run i u => SameRegisters s u ∧ enabled i u = true
    | .idle u => SameRegisters s u
    | .illegal w => s.hstep = 0 ∧ decode w = none := by
  have hsame := takeAgent_same s
  unfold nextTurn agentTurn
  generalize (takeAgent s).2 = u at hsame ⊢
  cases (takeAgent s).1 with
  | host =>
    simp only [hostTurn]
    cases hr : cmdReady u with
    | false => simpa using hsame
    | true =>
      have hz : s.hstep = 0 := by have := (cmdReady_iff u).1 hr; rw [hsame] at this; exact this
      have hrel := hsame.trans (releasePort_same u)
      cases presented u with
      | none => simpa using hrel
      | some w =>
        simp only [if_true, issue]
        cases hd : decode w with
        | none => exact ⟨hz, hd⟩
        | some i =>
          refine ⟨hrel, ?_⟩
          rw [enabled_congr (releasePort_same u), enabled_of_wellFormed (decode_wellFormed hd), hr]
  | handler =>
    simp only [handlerTurn]
    cases hh : handlerInstr u with
    | none => simpa using hsame
    | some i =>
      refine ⟨hsame, ?_⟩
      unfold handlerInstr at hh
      split at hh
      · cases hh; assumption
      · split at hh
        · cases hh; assumption
        · split at hh
          · cases hh; assumption
          · split at hh
            · cases hh; assumption
            · split at hh
              · cases hh; assumption
              · cases hh
  | clock => exact ⟨hsame, rfl⟩
  | reset => exact ⟨hsame, rfl⟩

end Sys2Proof.Machine
end

