-- ==== Sys2Proof/Laws/Exec.lean ====
section
/-! SUPPORT. One inversion lemma per step of R12: what is known when it completes; and for the commands, whose
checks come before their effect, the step in thread context. -/

namespace Sys2Proof.Machine

variable {s t : State} {f : Word}

theorem exec_next_enabled {i : Instr} (h : exec i s = .next t) : enabled i s = true := by
  cases i <;> first | rfl | exact (whenEnabled_next.1 h).1

theorem exec_nop_next (h : exec .nop s = .next t) : t = s := by
  obtain ⟨-, h⟩ := whenEnabled_next.1 h
  cases h; rfl

theorem exec_csetup_next (h : exec .csetup s = .next t) : s.run = false ∧ t = setupCarrier s := by
  obtain ⟨-, h⟩ := whenEnabled_next.1 h
  split at h <;> cases h
  exact ⟨by simp_all, rfl⟩

theorem exec_start_next (h : exec (.start f) s = .next t) :
    s.run = false ∧ s.cen = true ∧ s.cfg.legalFrequency f ∧
      t = { s with
        outf := f
        idx := 0
        deadline := s.cnt + BitVec.ofNat 32 (s.cfg.clockFrequency / f.toNat / 100)
        pend := false
        run := true } := by
  obtain ⟨-, h⟩ := whenEnabled_next.1 h
  split at h
  · cases h
  · split at h
    · cases h
    · obtain ⟨hl, h⟩ := withLegalFrequency_next h
      cases h
      exact ⟨by simp_all, by simp_all, hl, rfl⟩

theorem exec_stop_next (h : exec .stop s = .next t) : t = { s with run := false } := by
  obtain ⟨-, h⟩ := whenEnabled_next.1 h
  cases h; rfl

theorem exec_setf_next (h : exec (.setf f) s = .next t) :
    s.cfg.legalFrequency f ∧ t = { s with outf := f } := by
  obtain ⟨-, h⟩ := whenEnabled_next.1 h
  obtain ⟨hl, h⟩ := withLegalFrequency_next h
  cases h
  exact ⟨hl, rfl⟩

theorem exec_tenter_next (h : exec .tenter s = .next t) :
    s.run = true ∧ s.pend = true ∧ s.hstep = 0 ∧ t = enterHandler s := by
  obtain ⟨he, h⟩ := whenEnabled_next.1 h
  cases h
  simpa [enabled, tickIrq, and_assoc] using he

theorem exec_t1dl_next (h : exec .t1dl s = .next t) :
    s.hstep = 1 ∧ s.cfg.legalFrequency s.outf ∧
      t = setHstep 2 { s with
        deadline := s.deadline + BitVec.ofNat 32 (s.cfg.clockFrequency / s.outf.toNat / 100) } := by
  obtain ⟨he, h⟩ := whenEnabled_next.1 h
  obtain ⟨hl, h⟩ := withLegalFrequency_next h
  cases h
  exact ⟨by simpa [enabled] using he, hl, rfl⟩

theorem exec_t2clr_next (h : exec .t2clr s = .next t) : s.hstep = 2 ∧ t = setHstep 3 (clearPend s) := by
  obtain ⟨he, h⟩ := whenEnabled_next.1 h
  cases h
  exact ⟨by simpa [enabled] using he, rfl⟩

theorem exec_t3wr_next (h : exec .t3wr s = .next t) :
    s.hstep = 3 ∧ ∃ v, s.cfg.sample s.idx.toNat = some v ∧ t = setHstep 4 { s with cmpreg := v } := by
  obtain ⟨he, h⟩ := whenEnabled_next.1 h
  split at h <;> cases h
  exact ⟨by simpa [enabled] using he, _, by assumption, rfl⟩

theorem exec_t4adv_next (h : exec .t4adv s = .next t) :
    s.hstep = 4 ∧ s.idx.toNat < 100 ∧ t = returnFromHandler { s with idx := nextIndex s.idx } := by
  obtain ⟨he, h⟩ := whenEnabled_next.1 h
  split at h <;> cases h
  exact ⟨by simpa [enabled] using he, by omega, rfl⟩

theorem exec_csetup_ready (h : s.hstep = 0) : exec .csetup s =
    if s.run then .refused (.sequence .csetup s.run s.cen) else .next (setupCarrier s) :=
  whenEnabled_of_enabled (i := .csetup) ((cmdReady_iff s).2 h) _

theorem exec_start_ready (h : s.hstep = 0) : exec (.start f) s =
    if s.run then .refused (.sequence (.start f) s.run s.cen)
    else if !s.cen then .refused (.sequence (.start f) s.run s.cen)
    else withLegalFrequency (.start f) f s fun period =>
      .next { s with outf := f, idx := 0, deadline := s.cnt + period, pend := false, run := true } :=
  whenEnabled_of_enabled (i := .start f) ((cmdReady_iff s).2 h) _

theorem exec_setf_ready (h : s.hstep = 0) :
    exec (.setf f) s = withLegalFrequency (.setf f) f s fun _ => .next { s with outf := f } :=
  whenEnabled_of_enabled (i := .setf f) ((cmdReady_iff s).2 h) _

/-- `CLK` always completes. -/
@[simp] theorem exec_clk : exec .clk s = .next (carrierEdge (tickTimerEdge s)) := rfl

theorem exec_clk_next (h : exec .clk s = .next t) : t = carrierEdge (tickTimerEdge s) := by
  rw [exec_clk] at h
  cases h; rfl

/-- `RESET` always completes. -/
@[simp] theorem exec_reset : exec .reset s = .next (countReset
    (resetRegisters (Config.freeResetCnt s.drawn.resets) (Config.freeResetDeadline s.drawn.resets) s)) := rfl

theorem exec_reset_next (h : exec .reset s = .next t) :
    t = countReset
      (resetRegisters (Config.freeResetCnt s.drawn.resets) (Config.freeResetDeadline s.drawn.resets) s) := by
  rw [exec_reset] at h
  cases h; rfl

end Sys2Proof.Machine
end

