-- ==== Sys2Proof/Laws/Run.lean ====
section
/-! SUPPORT. Executions taken apart: one step and the rest, and two parts in a row. -/

namespace Sys2Proof.Machine

variable {s t : State} {i : Instr} {is js : List Instr}

@[simp] theorem runInstrs_nil : runInstrs [] s = .next s := rfl

theorem runInstrs_cons_of_next (h : exec i s = .next t) : runInstrs (i :: is) s = runInstrs is t := by
  simp [runInstrs, h]

/-- An execution that completes has a first step that completes. -/
theorem runInstrs_cons_next : runInstrs (i :: is) s = .next t ↔
    ∃ u, exec i s = .next u ∧ runInstrs is u = .next t := by
  simp only [runInstrs]
  cases exec i s <;> simp

theorem runInstrs_append_next : runInstrs (is ++ js) s = .next t ↔
    ∃ u, runInstrs is s = .next u ∧ runInstrs js u = .next t := by
  induction is generalizing s with
  | nil => simp
  | cons i is ih =>
    simp only [List.cons_append, runInstrs_cons_next, ih]
    constructor
    · rintro ⟨u, hu, v, hv, ht⟩
      exact ⟨v, ⟨u, hu, hv⟩, ht⟩
    · rintro ⟨v, ⟨u, hu, hv⟩, ht⟩
      exact ⟨u, hu, v, hv, ht⟩

/-- Two executions in a row. -/
theorem runInstrs_append {u : State} (h : runInstrs is s = .next t) (h' : runInstrs js t = .next u) :
    runInstrs (is ++ js) s = .next u :=
  runInstrs_append_next.2 ⟨t, h, h'⟩

theorem runInstrs_one (h : exec i s = .next t) : runInstrs [i] s = .next t := by
  rw [runInstrs_cons_of_next h, runInstrs_nil]

theorem completed_cons_of_next (h : exec i s = .next t) :
    completed (i :: is) s = { step := i, before := s, after := t } :: completed is t := by
  simp [completed, h]

/-! The numbering of the ticks, one completed step at a time (R14). -/

@[simp] theorem lastTick_nil (k : Nat) : lastTick k [] = k := rfl

@[simp] theorem lastTick_cons (k : Nat) (e : Completed) (es : List Completed) :
    lastTick k (e :: es) = lastTick (tickNumberAfter e.step k) es := rfl

@[simp] theorem numbered_nil (k : Nat) : numbered k [] = [] := rfl

@[simp] theorem numbered_cons (k : Nat) (e : Completed) (es : List Completed) :
    numbered k (e :: es) = (k, e) :: numbered (tickNumberAfter e.step k) es := rfl

/-- Numbering the completed steps loses none of them. -/
theorem numbered_snd (k : Nat) (es : List Completed) : (numbered k es).map Prod.snd = es := by
  induction es generalizing k with
  | nil => rfl
  | cons e es ih => rw [numbered_cons, List.map_cons, ih]

/-! The edges at which ticks become pending, and being in time, one completed step at a time (R120). -/

@[simp] theorem pendingEdges_nil (n : Nat) : pendingEdges n [] = [] := rfl

@[simp] theorem pendingEdges_cons (n : Nat) (e : Completed) (es : List Completed) :
    pendingEdges n (e :: es) =
      if e.pends then edgesAfter n e :: pendingEdges (edgesAfter n e) es else pendingEdges (edgesAfter n e) es := rfl

@[simp] theorem withLateness_nil (late : Option Nat) : withLateness late [] = [] := rfl

@[simp] theorem withLateness_cons (late : Option Nat) (e : Completed) (es : List Completed) :
    withLateness late (e :: es) = (late, e) :: withLateness (latenessAfter late e) es := rfl

@[simp] theorem lastLateness_nil (late : Option Nat) : lastLateness late [] = late := rfl

@[simp] theorem lastLateness_cons (late : Option Nat) (e : Completed) (es : List Completed) :
    lastLateness late (e :: es) = lastLateness (latenessAfter late e) es := rfl

@[simp] theorem inTime_none (s : State) : inTime none s = true := rfl

@[simp] theorem inTime_some (n : Nat) (s : State) : inTime (some n) s = withinPeriod n s := rfl

/-- The completed steps of an execution that completes end in its last state. -/
theorem lastState_completed (h : runInstrs is s = .next t) : lastState s (completed is s) = t := by
  induction is generalizing s with
  | nil => cases h; rfl
  | cons i is ih =>
    obtain ⟨u, hu, h⟩ := runInstrs_cons_next.1 h
    rw [completed_cons_of_next hu]
    exact ih h

theorem pends_iff (e : Completed) : e.pends = true ↔ e.before.pend = false ∧ e.after.pend = true := by
  simp [Completed.pends]

theorem withinPeriod_iff (n : Nat) (s : State) :
    withinPeriod n s = true ↔ ∃ p, s.cfg.tickPeriod s.outf = some p ∧ n < p.toNat := by
  unfold withinPeriod
  split <;> simp_all

/-- Clock edges in a row always complete. -/
theorem runInstrs_clks (n : Nat) : runInstrs (clks n) s = .next (afterClks n s) := by
  induction n generalizing s with
  | zero => rfl
  | succ n ih =>
    simp only [clks, List.replicate_succ] at ih ⊢
    rw [runInstrs_cons_of_next exec_clk, ih]
    rfl

end Sys2Proof.Machine
end

