-- ==== Sys2Proof/Laws/Clock.lean ====
section
/-! SUPPORT. What any number of clock edges does to each register. -/

namespace Sys2Proof.Machine

/-- The carrier after one clock edge (R100, R103). -/
theorem clockEdge_ccnt (s : State) : (carrierEdge (tickTimerEdge s)).ccnt =
    if s.cen then if s.ccnt.toNat + 1 = s.cfg.carrierPeriod then 0 else s.ccnt + 1 else s.ccnt :=
  carrierEdge_ccnt (tickTimerEdge s)

theorem clockEdge_cmpact (s : State) : (carrierEdge (tickTimerEdge s)).cmpact =
    if s.cen ∧ s.ccnt.toNat + 1 = s.cfg.carrierPeriod then s.cmpreg else s.cmpact :=
  carrierEdge_cmpact (tickTimerEdge s)

theorem afterClks_succ (n : Nat) (s : State) :
    afterClks (n + 1) s = afterClks n (carrierEdge (tickTimerEdge s)) := rfl

/-- The last edge split off. -/
theorem afterClks_succ_last (n : Nat) (s : State) :
    afterClks (n + 1) s = carrierEdge (tickTimerEdge (afterClks n s)) := by
  induction n generalizing s with
  | zero => rfl
  | succ n ih => rw [afterClks_succ, ih, ← afterClks_succ]

/-- A register no clock edge writes keeps its value over any number of them (R38). -/
theorem afterClks_keeps {α : Type} (get : State → α)
    (h : ∀ s, get (carrierEdge (tickTimerEdge s)) = get s) (n : Nat) (s : State) :
    get (afterClks n s) = get s := by
  induction n generalizing s with
  | zero => rfl
  | succ n ih => rw [afterClks_succ, ih, h]

variable (n : Nat) (s : State)

@[simp] theorem afterClks_run : (afterClks n s).run = s.run := afterClks_keeps (·.run) (by simp) n s
@[simp] theorem afterClks_idx : (afterClks n s).idx = s.idx := afterClks_keeps (·.idx) (by simp) n s
@[simp] theorem afterClks_outf : (afterClks n s).outf = s.outf := afterClks_keeps (·.outf) (by simp) n s
@[simp] theorem afterClks_deadline : (afterClks n s).deadline = s.deadline := afterClks_keeps (·.deadline) (by simp) n s
@[simp] theorem afterClks_hstep : (afterClks n s).hstep = s.hstep := afterClks_keeps (·.hstep) (by simp) n s
@[simp] theorem afterClks_cen : (afterClks n s).cen = s.cen := afterClks_keeps (·.cen) (by simp) n s
@[simp] theorem afterClks_cmpreg : (afterClks n s).cmpreg = s.cmpreg := afterClks_keeps (·.cmpreg) (by simp) n s
@[simp] theorem afterClks_oen : (afterClks n s).oen = s.oen := afterClks_keeps (·.oen) (by simp) n s
@[simp] theorem afterClks_pol : (afterClks n s).pol = s.pol := afterClks_keeps (·.pol) (by simp) n s
@[simp] theorem afterClks_cfg : (afterClks n s).cfg = s.cfg := afterClks_keeps (·.cfg) (by simp) n s
@[simp] theorem afterClks_commands : (afterClks n s).commands = s.commands := afterClks_keeps (·.commands) (by simp) n s
@[simp] theorem afterClks_schedule : (afterClks n s).schedule = s.schedule := afterClks_keeps (·.schedule) (by simp) n s
@[simp] theorem afterClks_drawn : (afterClks n s).drawn = s.drawn := afterClks_keeps (·.drawn) (by simp) n s

/-- The count goes up by one per edge (R101). -/
@[simp] theorem afterClks_cnt : (afterClks n s).cnt = s.cnt + BitVec.ofNat 32 n := by
  induction n with
  | zero => simp [afterClks]
  | succ n ih =>
    rw [afterClks_succ_last]
    rw [carrierEdge_cnt, tickTimerEdge_cnt, ih, BitVec.ofNat_add, BitVec.add_assoc]
    rfl

/-- The flag after `n` edges: set before, or set by one of the edges (R29, R102). -/
theorem afterClks_pend : (afterClks n s).pend = true ↔ s.pend = true ∨
    ∃ k, 1 ≤ k ∧ k ≤ n ∧ deadlineMatch s.cfg.matchMode (s.cnt + BitVec.ofNat 32 k) s.deadline = true := by
  induction n with
  | zero => simp [afterClks]
  | succ n ih =>
    rw [afterClks_succ_last]
    have hc : (afterClks n s).cnt + 1 = s.cnt + BitVec.ofNat 32 (n + 1) := by
      rw [afterClks_cnt, BitVec.ofNat_add, BitVec.add_assoc]
      rfl
    simp only [carrierEdge_pend, tickTimerEdge_pend, comparedPend, hc, afterClks_cfg, afterClks_deadline,
      Bool.or_eq_true, ih]
    constructor
    · rintro ((h | ⟨k, h1, h2, h⟩) | h)
      · exact .inl h
      · exact .inr ⟨k, h1, by omega, h⟩
      · exact .inr ⟨n + 1, by omega, by omega, h⟩
    · rintro (h | ⟨k, h1, h2, h⟩)
      · exact .inl (.inl h)
      · rcases Nat.lt_or_ge n k with hk | hk
        · have : k = n + 1 := by omega
          exact .inr (this ▸ h)
        · exact .inl (.inr ⟨k, h1, hk, h⟩)

end Sys2Proof.Machine
end

