-- ==== Sys2Proof/Laws/Config.lean ====
section
/-! SUPPORT. The check of R7 against its meaning, and a turn of the machine under a good configuration. -/

namespace Sys2Proof.Machine

theorem goodCfg_iff_meets (c : Cfg) : GoodCfg c ↔ ∀ k, c.meets k = true := by
  have mem_table {v : Sample} : v ∈ c.table.toList ↔ ∃ i, c.sample i = some v := by
    simp only [Cfg.sample, Vector.mem_toList_iff, Vector.mem_iff_getElem?]
  have head : c.table.toList.head? = c.sample 0 := by
    rw [List.head?_eq_getElem?]
    simp [Cfg.sample]
  constructor
  · intro h k
    cases k with
    | sampleCount => simpa [Cfg.meets] using h.sampleCount
    | wordWidth => simpa [Cfg.meets] using h.wordWidth
    | clockFrequency => simpa [Cfg.meets] using ⟨h.clockLow, h.clockHigh⟩
    | carrierPeriod => simpa [Cfg.meets] using ⟨h.carrierLow, h.carrierHigh⟩
    | tableRange =>
      simp only [Cfg.meets, List.all_eq_true, decide_eq_true_eq]
      rintro v hv
      obtain ⟨i, hi⟩ := mem_table.1 hv
      exact h.tableRange i v hi
    | tableMinimum =>
      simp only [Cfg.meets, List.any_eq_true, beq_iff_eq]
      exact ⟨0, mem_table.2 ⟨0, h.tableStart⟩, rfl⟩
    | tableStart =>
      simp only [Cfg.meets, beq_iff_eq, head]
      exact h.tableStart
    | defaultFrequency => exact decide_eq_true h.defaultFrequency
  · intro h
    have h3 := h .clockFrequency
    have h4 := h .carrierPeriod
    have h5 := h .tableRange
    have h6 := h .tableStart
    simp only [Cfg.meets, decide_eq_true_eq, List.all_eq_true, beq_iff_eq, head] at h3 h4 h5 h6
    exact {
      sampleCount := by simpa [Cfg.meets] using h .sampleCount
      wordWidth := by simpa [Cfg.meets] using h .wordWidth
      clockLow := h3.1
      clockHigh := h3.2
      carrierLow := h4.1
      carrierHigh := h4.2
      tableRange := fun i v hv => h5 v (mem_table.2 ⟨i, hv⟩)
      tableStart := h6
      defaultFrequency := by simpa [Cfg.meets, Cfg.legalFrequency] using h .defaultFrequency }

/-- The executable check finds no violation exactly for a configuration that meets R7. -/
theorem violation_eq_none_iff (c : Cfg) : c.violation = none ↔ GoodCfg c := by
  rw [goodCfg_iff_meets, Cfg.violation, List.find?_eq_none]
  constructor
  · intro h k
    simpa using h k (by cases k <;> simp [Cfg.constraints])
  · intro h k _
    simp [h k]

theorem withGoodCfg_of_good {s : State} (h : GoodCfg s.cfg) (k : Result) : withGoodCfg s k = k := by
  rw [withGoodCfg, (violation_eq_none_iff _).2 h]

end Sys2Proof.Machine
end

