-- ==== Sys2Proof/Laws/Decode.lean ====
section
/-! SUPPORT. The fields of a command word put together from its fields (R71). -/

namespace Sys2Proof

@[simp] theorem opField_cmdWord (op : BitVec 3) (arg : Word) : opField (cmdWord op arg) = op := by
  unfold opField cmdWord
  exact BitVec.extractLsb'_append_eq_left

@[simp] theorem argField_cmdWord (op : BitVec 3) (arg : Word) : argField (cmdWord op arg) = arg := by
  unfold argField cmdWord
  exact BitVec.extractLsb'_append_eq_right

/-- A command word as a number. -/
theorem cmdWord_toNat (op : BitVec 3) (arg : Word) : (cmdWord op arg).toNat = op.toNat * 2 ^ 32 + arg.toNat := by
  unfold cmdWord
  rw [BitVec.toNat_append, ← Nat.shiftLeft_add_eq_or_of_lt arg.isLt, Nat.shiftLeft_eq]

/-- A command word is its two fields: no bit of it is dropped. -/
theorem cmdWord_fields (w : CmdWord) : cmdWord (opField w) (argField w) = w := by
  apply BitVec.eq_of_getLsbD_eq
  intro i hi
  simp only [cmdWord, opField, argField, BitVec.getLsbD_append, BitVec.getLsbD_extractLsb']
  by_cases h : i < 32
  · simp [h]
  · have : 32 + (i - 32) = i := by omega
    simp [h, this]; omega

/-- The decoder sees a word through its fields only. -/
@[simp] theorem decode_cmdWord (op : BitVec 3) (arg : Word) : decode (cmdWord op arg) = commandOf op arg := by
  simp [decode]

end Sys2Proof
end

