-- ==== Sys2Proof/Laws/Keep.lean ====
section
/-! SUPPORT. What a completed step keeps, for the registers the whole-machine rules are about. -/

namespace Sys2Proof.Machine

variable {i : Instr} {s t : State}

/-- No step writes `cfg` (R6, R13 (2)). -/
theorem exec_keeps_cfg (h : exec i s = .next t) : t.cfg = s.cfg := by
  cases i with
  | nop => rw [exec_nop_next h]
  | csetup => rw [(exec_csetup_next h).2]; rfl
  | start f => rw [(exec_start_next h).2.2.2]
  | stop => rw [exec_stop_next h]
  | setf f => rw [(exec_setf_next h).2]
  | tenter => rw [(exec_tenter_next h).2.2.2]; rfl
  | t1dl => rw [(exec_t1dl_next h).2.2]; rfl
  | t2clr => rw [(exec_t2clr_next h).2]; rfl
  | t3wr => obtain ⟨-, v, -, rfl⟩ := exec_t3wr_next h; rfl
  | t4adv => rw [(exec_t4adv_next h).2.2]; rfl
  | clk => rw [exec_clk_next h]; simp
  | reset => rw [exec_reset_next h]; rfl

/-- The steps outside the handler do not move the sequencer; a reset returns it to 0 (R30). -/
theorem exec_keeps_hstep (h : exec i s = .next t) (hi : i.inHandler = false) (hr : i ≠ .reset) :
    t.hstep = s.hstep := by
  cases i with
  | nop => rw [exec_nop_next h]
  | csetup => rw [(exec_csetup_next h).2]; rfl
  | start f => rw [(exec_start_next h).2.2.2]
  | stop => rw [exec_stop_next h]
  | setf f => rw [(exec_setf_next h).2]
  | tenter => cases hi
  | t1dl => cases hi
  | t2clr => cases hi
  | t3wr => cases hi
  | t4adv => cases hi
  | clk => rw [exec_clk_next h]; simp
  | reset => exact absurd rfl hr

end Sys2Proof.Machine
end

