-- ==== Sys2Proof/Laws/PerInstr.lean ====
section
/-! SUPPORT. A statement about each step as a term of `Instr`, one lemma per constructor. -/

namespace Sys2Proof.Laws.Encodable

/-- A step has an encoding exactly when it is a command, and no encoding uses a reserved op (R74, R75, R76). -/
def Statement (i : Instr) : Prop :=
  (i.wellFormed = true ↔ (encode i).isSome = true) ∧ ∀ w, encode i = some w → (opField w).toNat < 5

theorem command {i : Instr} {op : BitVec 3} {arg : Word} (hw : i.wellFormed = true)
    (he : encode i = some (cmdWord op arg)) (hop : op.toNat < 5) : Statement i := by
  refine ⟨by simp [hw, he], ?_⟩
  rintro w h
  rw [he] at h
  cases h
  simpa using hop

theorem event {i : Instr} (hw : i.wellFormed = false) (he : encode i = none) : Statement i :=
  ⟨by simp [hw, he], by simp [he]⟩

theorem nop : Statement .nop := command rfl rfl (by decide)
theorem csetup : Statement .csetup := command rfl rfl (by decide)
theorem start (f : Word) : Statement (.start f) := command rfl rfl (by decide)
theorem stop : Statement .stop := command rfl rfl (by decide)
theorem setf (f : Word) : Statement (.setf f) := command rfl rfl (by decide)
theorem tenter : Statement .tenter := event rfl rfl
theorem t1dl : Statement .t1dl := event rfl rfl
theorem t2clr : Statement .t2clr := event rfl rfl
theorem t3wr : Statement .t3wr := event rfl rfl
theorem t4adv : Statement .t4adv := event rfl rfl
theorem clk : Statement .clk := event rfl rfl
theorem reset : Statement .reset := event rfl rfl

end Sys2Proof.Laws.Encodable
end

