-- ==== Sys2Proof/Laws/Step.lean ====
section
/-! SUPPORT. A turn of the machine, said once: which turn it is, and what each agent's turn runs. -/

namespace Sys2Proof.Machine

theorem step_of_good {s : State} (h : GoodCfg s.cfg) : step s = runTurn (nextTurn s) := withGoodCfg_of_good h _

/-- A turn that completes had a good configuration. -/
theorem step_next {s t : State} (h : step s = .next t) : runTurn (nextTurn s) = .next t := by
  unfold step withGoodCfg at h
  split at h
  · cases h
  · exact h

/-- The turn of the agent at the head of the schedule. -/
theorem nextTurn_of_schedule {s : State} {a : Agent} {rest : List Agent} (h : s.schedule = a :: rest) :
    nextTurn s = agentTurn a { s with schedule := rest } := by
  simp only [nextTurn, takeAgent, h]

end Sys2Proof.Machine
end

