-- ==== Sys2Proof/Tests/Slice0.lean ====
section
/-! SUPPORT. Small tests, their expected results from the spec's vectors (95_test_vectors.md) or by hand from the rule
named; the ill-formed terms the checks refuse; and for each statement with hypotheses a witness that meets them. -/

namespace Sys2Proof.Tests

open Sys2Proof.Machine

/-- One field of the next state, if there is one. -/
def nextField {α : Type} (r : Result) (get : State → α) : Option α :=
  match r with
  | .next t => some (get t)
  | .fault _ => none
  | .refused _ => none

/-- The reason of a fault. -/
def faultOf (r : Result) : Option Fault :=
  match r with
  | .next _ => none
  | .fault r => some r
  | .refused _ => none

/-- The reason of a refusal. -/
def refusalOf (r : Result) : Option Refusal :=
  match r with
  | .next _ => none
  | .fault _ => none
  | .refused r => some r

/-- The default block after `CSETUP`, Stopped. -/
def ready : State := { State.reset with cen := true, oen := true }

/-- The same, Running at 100 Hz with a deadline ahead. -/
def running : State := { ready with run := true, deadline := 5800, cnt := 1000 }

/-- Running, with the tick pending at its deadline. -/
def ticking : State := { running with cnt := 5800, pend := true }

/-- In the handler, micro-step `k` next. -/
def inStep (k : HandlerStep) : State := { ticking with hstep := k }

/-! ### Decoding: words written out bit by bit from R71 and R73 -/

theorem test_decode_nop :
    decode 0b000_00000000000000000000000000000000#35 = some .nop := by decide
theorem test_decode_nop_ignores_low_bits :
    decode 0b000_11011110101011011011111011101111#35 = some .nop := by decide
theorem test_decode_csetup :
    decode 0b001_00000000000000000000000000000001#35 = some .csetup := by decide
theorem test_decode_start :
    decode 0b010_00000000000000000000000001100100#35 = some (.start 100) := by decide
theorem test_decode_stop :
    decode 0b011_00000000000000000000000000000000#35 = some .stop := by decide
theorem test_decode_setf :
    decode 0b100_10000000000000000000000000000001#35 = some (.setf 0x80000001) := by decide
theorem test_decode_reserved :
    decode 0b101_00000000000000000000000000000000#35 = none ∧
    decode 0b110_00000000000000000000000000000000#35 = none ∧
    decode 0b111_11111111111111111111111111111111#35 = none := by decide
theorem test_encode_start : encode (.start 100) = some 0x200000064#35 := by decide
theorem test_table_word : decodeTableWord 40 0x400000032 = some (.setf 50) ∧
    decodeTableWord 35 0x300000001 = some .stop ∧ decodeTableWord 40 0x800000000 = none := by decide

/-! ### Checks refuse ill-formed terms -/

theorem test_events_are_no_commands :
    [Instr.tenter, .t1dl, .t2clr, .t3wr, .t4adv, .clk, .reset].all (fun i => !i.wellFormed) = true := by decide
theorem test_default_cfg_has_no_violation : Cfg.default.violation = none := by decide
theorem test_cfg_sample_count :
    { Cfg.default with sampleCount := 99 }.violation = some .sampleCount := by decide
theorem test_cfg_word_width :
    { Cfg.default with wordWidth := 16 }.violation = some .wordWidth := by decide
theorem test_cfg_clock :
    { Cfg.default with clockFrequency := 99 }.violation = some .clockFrequency ∧
    { Cfg.default with clockFrequency := 2 ^ 32 }.violation = some .clockFrequency := by decide
theorem test_cfg_carrier :
    { Cfg.default with carrierPeriod := 1 }.violation = some .carrierPeriod ∧
    { Cfg.default with carrierPeriod := 2 ^ 16 + 1 }.violation = some .carrierPeriod := by decide
theorem test_cfg_table_range :
    { Cfg.default with carrierPeriod := 255 }.violation = some .tableRange := by decide
theorem test_cfg_table_minimum :
    { Cfg.default with table := Vector.replicate 100 1 }.violation = some .tableMinimum := by decide
/-- `TABLE_LITERAL` starts at 128: the default image rotated by 25 (V2). -/
theorem test_cfg_table_start :
    { Cfg.default with
      table := ⟨((defaultImage.drop 25 ++ defaultImage.take 25).map (BitVec.ofNat 16)).toArray, rfl⟩ }.violation =
      some .tableStart := by decide
theorem test_cfg_default_frequency :
    { Cfg.default with defaultFrequency := 0 }.violation = some .defaultFrequency ∧
    { Cfg.default with defaultFrequency := 480001 }.violation = some .defaultFrequency := by decide
/-- Vectors V10, V15, V20 to V23, V25. -/
theorem test_tick_period :
    [100, 7, 240001, 480000, 480001, 0x80000000, 0].map Cfg.default.tickPeriod =
      [some 4800, some 68571, some 1, some 1, some 0, some 0, none] := by decide

/-! ### Single steps -/

theorem test_nop : nextField (exec .nop running) id = some running := by decide
/-- T2. -/
theorem test_csetup :
    nextField (exec .csetup { ready with ccnt := 77, cmpreg := 143, cmpact := 136, idx := 9 })
      (fun t => (t.ccnt, t.cmpreg, t.cmpact, t.idx)) = some (0, 0, 0, 9) := by decide
/-- T3. -/
theorem test_csetup_running : refusalOf (exec .csetup running) = some (.sequence .csetup true true) := by decide
/-- T6: the sum wraps. -/
theorem test_start_wraps :
    nextField (exec (.start 200) { ready with cnt := 0xFFFFF800, idx := 37, pend := true })
      (fun t => (t.outf, t.idx, t.deadline, t.pend, t.run)) = some (200, 0, 0x160, false, true) := by decide
/-- T7, T10. -/
theorem test_start_sequence :
    refusalOf (exec (.start 100) State.reset) = some (.sequence (.start 100) false false) ∧
    refusalOf (exec (.start 0) running) = some (.sequence (.start 0) true true) := by decide
/-- T13. -/
theorem test_stop :
    nextField (exec .stop { running with idx := 42, cmpreg := 239, pend := true })
      (fun t => (t.run, t.idx, t.cmpreg, t.pend)) = some (false, 42, 239, true) := by decide
/-- T15. -/
theorem test_setf :
    nextField (exec (.setf 50) { running with deadline := 52800 }) (fun t => (t.outf, t.deadline)) =
      some (50, 52800) := by decide
/-- T17, T18. -/
theorem test_setf_faults :
    faultOf (exec (.setf 0) running) = some (.freqZero (.setf 0)) ∧
    faultOf (exec (.setf 480001) running) = some (.freqRange (.setf 480001) 480001) := by decide
/-- T21. -/
theorem test_tenter :
    nextField (exec .tenter ticking) (fun t => (t.hstep, t.pend, cmdReady t)) = some (1, true, false) := by decide
/-- T22, T23. -/
theorem test_tenter_disabled :
    enabled .tenter { ticking with run := false } = false ∧ enabled .tenter running = false := by decide
/-- T26: the sum wraps; T27. -/
theorem test_t1dl :
    nextField (exec .t1dl { inStep 1 with deadline := 0xFFFFF000 }) (fun t => (t.deadline, t.hstep)) =
      some (0x2C0, 2) ∧
    nextField (exec .t1dl { inStep 1 with deadline := 0xFFFFFFFF, outf := 480000 }) (fun t => t.deadline) =
      some 0 := by decide
/-- R147: a zero interval is a fault, here as in `SETF`. -/
theorem test_t1dl_zero_interval :
    faultOf (exec .t1dl { inStep 1 with outf := 480001 }) = some (.freqRange .t1dl 480001) := by decide
/-- T28. -/
theorem test_t2clr : nextField (exec .t2clr (inStep 2)) (fun t => (t.pend, t.hstep)) = some (false, 3) := by decide
/-- T30, T32. -/
theorem test_t3wr :
    nextField (exec .t3wr { inStep 3 with idx := 25 }) (fun t => (t.cmpreg, t.cmpact, t.hstep)) =
      some (128, 0, 4) ∧
    nextField (exec .t3wr { inStep 3 with idx := 99 }) (fun t => t.cmpreg) = some 0 := by decide
/-- T33. -/
theorem test_t3wr_range : refusalOf (exec .t3wr { inStep 3 with idx := 100 }) = some (.indexRange 100) := by decide
/-- T36, T37. -/
theorem test_t4adv :
    nextField (exec .t4adv { inStep 4 with idx := 99 }) (fun t => (t.idx, t.hstep)) = some (0, 0) ∧
    nextField (exec .t4adv { inStep 4 with idx := 63 }) (fun t => t.idx) = some 64 := by decide
/-- R94: 127 would overflow 7 bits and is refused. -/
theorem test_t4adv_range : refusalOf (exec .t4adv { inStep 4 with idx := 127 }) = some (.indexRange 127) := by decide
/-- T38. -/
theorem test_clk :
    nextField (exec .clk { ready with cnt := 5799, deadline := 5800, ccnt := 255, cmpreg := 128 })
      (fun t => (t.cnt, t.pend, t.ccnt, t.cmpact)) = some (5800, true, 0, 128) := by decide
/-- T40, T42. -/
theorem test_clk_wrap_and_equal :
    nextField (exec .clk { State.reset with cnt := 0xFFFFFFFF }) (fun t => (t.cnt, t.pend, t.ccnt)) =
      some (0, true, 0) ∧
    nextField (exec .clk { ready with cnt := 15000, deadline := 9600, cfg := { Cfg.default with matchMode := .equal } })
      (fun t => (t.cnt, t.pend)) = some (15001, false) := by decide
/-- T44. -/
theorem test_reset :
    nextField (exec .reset { inStep 3 with idx := 5, outf := 7, cmpreg := 9 })
      (fun t => (t.run, t.idx, t.outf, t.pend, t.hstep)) = some (false, 0, 100, false, 0) := by decide

/-- R14, R96 and R153: after two ticks a `START` begins the count of the ticks anew. -/
theorem test_ticks_are_counted_from_the_last_start :
    let tick : List Instr := [.clk] ++ tickSteps
    let s : State := { running with cnt := 5798, deadline := 5799, outf := 480000 }
    tickCount (tick ++ tick) s = 2 ∧ tickWrites (tick ++ tick) s = [(1, 0), (2, 0)] ∧
    tickCount (tick ++ tick ++ [.stop, .start 480000] ++ tick) s = 1 ∧
    tickIndices (tick ++ tick ++ [.stop, .start 480000] ++ tick) s = [(1, 1), (2, 2), (1, 1)] := by decide

/-! ### Comparator, output, script, turns -/

/-- M1, M2, M3, M7, M8, M9. -/
theorem test_match_reached :
    [((5800, 5800) : Word × Word), (5799, 5800), (5801, 5800), (0x10, 0xFFFFFFF0), (0x7FFFFFFF, 0),
      (0x80000000, 0)].map (fun p => deadlineMatch .reached p.1 p.2) = [true, false, true, true, true, false] := by
  decide
/-- K1, K4, K10. -/
theorem test_pwm_out :
    pwmOut { ready with cmpact := 64, ccnt := 63 } = .driven true ∧
    pwmOut { ready with cmpact := 64, ccnt := 64 } = .driven false ∧
    pwmOut { ready with cmpact := 64, ccnt := 63, pol := true } = .driven false ∧
    pwmOut State.reset = .undriven := by decide
theorem test_read_script :
    readScript "CSETUP ; set up\nSTART 0x64\nRUNTICKS 1_0\n\nEXPECT IDX = 10\n".toList =
      some [.step .csetup, .step (.start 100), .runTicks 10, .expect .idx 10] ∧
    readScript "start(100)".toList = none := by decide
/-- T20: held in handler context; the word stays on the port. -/
theorem test_held :
    nextField (step { inStep 3 with schedule := [.host], commands := [0x300000000#35] })
      (fun t => (t.hstep, t.run, t.commands)) = some (3, true, [0x300000000#35]) := by decide
theorem test_first_word_after_reset :
    nextField (step (State.reset.withFetchWord 40 0x100000000)) (fun t => (t.cen, t.commands, t.schedule)) =
      some (true, [], []) := by decide
theorem test_handler_turn :
    nextField (step { ticking with schedule := [.handler, .clock] }) (fun t => (t.hstep, t.schedule)) =
      some (1, [.clock]) := by decide

/-! ### Witnesses -/

theorem default_good : GoodCfg Cfg.default := (violation_eq_none_iff _).1 test_default_cfg_has_no_violation

/-- The invariants hold of the default block in any context it can be in. -/
theorem inv_inStep (k : HandlerStep) (h : k.toNat ≤ 4) : Inv (inStep k) where
  cfgGood := default_good
  idxRange := show ticking.idx.toNat ≤ 99 by decide
  hstepRange := h
  handlerRuns := fun _ => rfl
  outfLegal := show 1 ≤ ticking.outf.toNat ∧ ticking.outf.toNat ≤ ticking.cfg.fMax by decide
  cmpregRange := show ticking.cmpreg.toNat < ticking.cfg.carrierPeriod by decide
  cmpactRange := show ticking.cmpact.toNat < ticking.cfg.carrierPeriod by decide
  ccntRange := show ticking.ccnt.toNat < ticking.cfg.carrierPeriod by decide
  runNeedsCarrier := fun _ => rfl
  outputWithCarrier := rfl

theorem inv_running : Inv running where
  cfgGood := default_good
  idxRange := by decide
  hstepRange := by decide
  handlerRuns := fun h => absurd rfl h
  outfLegal := ⟨by decide, by decide⟩
  cmpregRange := by decide
  cmpactRange := by decide
  ccntRange := by decide
  runNeedsCarrier := fun _ => rfl
  outputWithCarrier := rfl

theorem witness_Decode_of_encode_is_the_command : (Instr.start 0xFFFFFFFF).wellFormed = true := rfl

theorem witness_Encode_of_decode_is_the_word :
    decode 0x2FFFFFFFF#35 = some (.start 0xFFFFFFFF) ∧ decode 0x0DEADBEEF#35 = some .nop := by decide

/-- A good configuration, and a bad one for the last clause. -/
theorem witness_Bad_cfg_is_refused_before_any_step :
    GoodCfg State.reset.cfg ∧ ¬ GoodCfg { Cfg.default with carrierPeriod := 1 } :=
  ⟨default_good, fun h => absurd h.carrierLow (by decide)⟩

/-- `f` at 0, 1, `F_MAX` and `F_MAX + 1`. -/
theorem witness_TickPeriod_of_legal_and_illegal_frequencies :
    GoodCfg Cfg.default ∧ (1 : Word).toNat ≤ Cfg.default.clockFrequency / 100 ∧
    (480000 : Word).toNat = Cfg.default.clockFrequency / 100 ∧
    Cfg.default.clockFrequency / 100 < (480001 : Word).toNat := ⟨default_good, by decide⟩

theorem witness_After_reset_the_block_waits : AfterReset State.reset := ⟨default_good, 0, 0, rfl⟩

theorem witness_Reset_draws_fresh_values : ∃ t, exec .reset (inStep 3) = .next t := ⟨_, rfl⟩

theorem witness_Nop_changes_nothing : running.hstep = 0 ∧ (0x0FFFFFFFF#35).extractLsb' 32 3 = 0#3 := by decide

/-- Stopped and Running; and after the setup a first tick, whose sample is 0 (R53), with the edges around it. -/
theorem witness_Csetup_sets_up_the_carrier :
    State.reset.hstep = 0 ∧ State.reset.run = false ∧ running.hstep = 0 ∧ running.run = true ∧
    (0x1FFFFFFFF#35).extractLsb' 32 3 = 1#3 ∧
    ∃ t u, exec .csetup State.reset = .next t ∧ Instr.reset ∉ ([.start 480000, .clk] ++ tickSteps ++ [.clk]) ∧
      writeTrace ([.start 480000, .clk] ++ tickSteps ++ [.clk]) t = [0] ∧
      runInstrs ([.start 480000, .clk] ++ tickSteps ++ [.clk]) t = .next u :=
  ⟨rfl, rfl, rfl, rfl, by decide, _, _, rfl, by decide, by decide, rfl⟩

/-- Every clause of the `START` statement, with `f` at its bounds; the last one at both ends of the wait. -/
theorem witness_Start_arms_the_tick :
    (running.hstep = 0 ∧ running.run = true) ∧ (State.reset.run = false ∧ State.reset.cen = false) ∧
    (ready.hstep = 0 ∧ ready.run = false ∧ ready.cen = true) ∧
    (480001 : Word) ≠ 0 ∧ ready.cfg.clockFrequency / 100 < (480001 : Word).toNat ∧
    (480000 : Word).toNat ≤ ready.cfg.clockFrequency / 100 ∧
    GoodCfg ready.cfg ∧ (∃ t, exec (.start 480000) ready = .next t) ∧
    1 ≤ ready.cfg.clockFrequency / (480000 : Word).toNat / 100 :=
  ⟨by decide, by decide, by decide, by decide, by decide, by decide, default_good, ⟨_, rfl⟩, by decide⟩

theorem witness_Stop_clears_run_only :
    running.hstep = 0 ∧ ready.run = false ∧ (0x300000001#35).extractLsb' 32 3 = 3#3 ∧
    ∃ t u v, exec .stop running = .next t ∧ exec .clk t = .next u ∧ exec .clk running = .next v :=
  ⟨by decide, by decide, by decide, _, _, _, rfl, rfl, rfl⟩

theorem witness_Setf_writes_outf_only :
    running.hstep = 0 ∧ (480001 : Word) ≠ 0 ∧ running.cfg.clockFrequency / 100 < (480001 : Word).toNat ∧
    1 ≤ (480000 : Word).toNat ∧ (480000 : Word).toNat ≤ running.cfg.clockFrequency / 100 ∧
    (0x400075300#35).extractLsb' 32 3 = 4#3 := by decide

/-- One state and word for each clause. -/
theorem witness_First_cause_is_reported :
    let at_ (s : State) (w : CmdWord) : State := { s with schedule := [.host], commands := [w] }
    GoodCfg (at_ running 0x500000000).cfg ∧ (at_ running 0x500000000).hstep = 0 ∧
    5 ≤ ((0x500000000 : CmdWord).extractLsb' 32 3).toNat ∧
    ((0x100000000 : CmdWord).extractLsb' 32 3 = 1#3 ∧ (at_ running 0x100000000).run = true) ∧
    ((0x200000000 : CmdWord).extractLsb' 32 3 = 2#3 ∧ (at_ ready 0x200000000).cen = true ∧
      (0x200000000 : CmdWord).extractLsb' 0 32 = 0) ∧
    (at_ ready 0x200075301).cfg.clockFrequency / 100 < ((0x200075301 : CmdWord).extractLsb' 0 32).toNat ∧
    ((0x400000000 : CmdWord).extractLsb' 32 3 = 4#3 ∧ (0x400000000 : CmdWord).extractLsb' 0 32 = 0) ∧
    (at_ ready 0x400075301).cfg.clockFrequency / 100 < ((0x400075301 : CmdWord).extractLsb' 0 32).toNat :=
  ⟨default_good, by decide⟩

/-- A requested tick, and a run of the handler up to `T4ADV` with a clock edge in it. -/
theorem witness_Tenter_enters_the_handler :
    ticking.run = true ∧ ticking.pend = true ∧ ticking.hstep = 0 ∧
    ∃ t u, exec .tenter ticking = .next t ∧ Instr.t4adv ∉ [Instr.t1dl, .clk, .t2clr, .t3wr] ∧
      Instr.reset ∉ [Instr.t1dl, .clk, .t2clr, .t3wr] ∧ runInstrs [.t1dl, .clk, .t2clr, .t3wr] t = .next u :=
  ⟨rfl, rfl, rfl, _, _, rfl, by decide, by decide, rfl⟩

theorem witness_T1dl_moves_the_deadline :
    (inStep 1).hstep = 1 ∧ 1 ≤ (inStep 1).outf.toNat ∧
    (inStep 1).outf.toNat ≤ (inStep 1).cfg.clockFrequency / 100 ∧
    { inStep 1 with outf := 0 }.outf = 0 := by decide

theorem witness_T2clr_clears_the_pending_flag :
    (inStep 2).hstep = 2 ∧ (inStep 2).cfg.matchMode = .reached ∧
    { inStep 2 with cfg := { Cfg.default with matchMode := .equal } }.cfg.matchMode = .equal ∧
    ∃ t u, exec .t2clr (inStep 2) = .next t ∧ exec .clk t = .next u := ⟨by decide, rfl, rfl, _, _, rfl, rfl⟩

theorem witness_T3wr_writes_the_sample :
    { inStep 3 with idx := 99 }.hstep = 3 ∧ { inStep 3 with idx := 99 }.idx.toNat < 100 ∧
    100 ≤ { inStep 3 with idx := 100 }.idx.toNat ∧
    (nextField (exec .t3wr { inStep 3 with idx := 99 }) id).isSome = true := by decide

theorem witness_T4adv_advances_the_index :
    (inStep 4).hstep = 4 ∧ { inStep 4 with idx := 98 }.idx.toNat < 99 ∧ { inStep 4 with idx := 99 }.idx.toNat = 99 ∧
    100 ≤ { inStep 4 with idx := 100 }.idx.toNat ∧
    (nextField (exec .t4adv { inStep 4 with idx := 99 }) id).isSome = true := by decide

/-- Each micro-step's context for the first clause; a requested tick for the second. -/
theorem witness_One_tick_with_any_clock_interleaving :
    ((inStep 1).hstep ≠ 0 ∧ enabled .t1dl (inStep 1) = true ∧ enabled .t2clr (inStep 2) = true ∧
      enabled .t3wr (inStep 3) = true ∧ enabled .t4adv (inStep 4) = true ∧ enabled .clk (inStep 4) = true) ∧
    ticking.idx.toNat < 100 ∧ ticking.run = true ∧ ticking.pend = true ∧ ticking.hstep = 0 ∧
    1 ≤ ticking.outf.toNat ∧ ticking.outf.toNat ≤ ticking.cfg.clockFrequency / 100 := by decide

/-- One tick from a freshly started state, and the same with a `STOP` and a `START` behind it; the traces are not
empty. -/
theorem witness_Every_sample_once_and_in_order :
    ticking.hstep = 0 ∧ ticking.idx = 0 ∧ Instr.reset ∉ tickSteps ∧ (∀ f, Instr.start f ∉ tickSteps) ∧
    (∃ t, runInstrs tickSteps ticking = .next t ∧ t.hstep = 0) ∧ (writeTrace tickSteps ticking)[0]? = some 0 ∧
    (indexTrace tickSteps ticking)[0]? = some 1 ∧
    (∃ t, runInstrs (tickSteps ++ [.stop, .start 100]) ticking = .next t ∧ t.hstep = 0) ∧
    (1, 0) ∈ tickWrites (tickSteps ++ [.stop, .start 100]) ticking ∧
    (1, 1) ∈ tickIndices (tickSteps ++ [.stop, .start 100]) ticking :=
  ⟨by decide, by decide, by decide, by simp [tickSteps, tickWithClks, clks], ⟨_, rfl, rfl⟩, by decide, by decide,
    ⟨_, rfl, rfl⟩, by decide, by decide⟩

theorem witness_Deadlines_are_sums_of_periods :
    Instr.reset ∉ tickSteps ∧ (∀ f, Instr.start f ∉ tickSteps) ∧ (∀ f, Instr.setf f ∉ tickSteps) ∧
    (∃ t, runInstrs tickSteps ticking = .next t) ∧ (deadlineTrace tickSteps ticking)[0]? = some 10600 :=
  ⟨by decide, by simp [tickSteps, tickWithClks, clks], by simp [tickSteps, tickWithClks, clks], ⟨_, rfl⟩, by decide⟩

theorem witness_Frequency_change_takes_effect_at_the_next_tick :
    ∃ t u v, exec (.setf 50) ticking = .next t ∧ runInstrs (clks 1) t = .next u ∧
      runInstrs (tickWithClks 0 1 0 0) u = .next v := ⟨_, _, _, rfl, rfl, rfl⟩

theorem witness_No_overrun_schedule_runs_every_tick : Inv running ∧ running.run = true ∧ running.hstep = 0 :=
  ⟨inv_running, rfl, rfl⟩

theorem witness_Clock_edge : 1 ≤ State.reset.cfg.carrierPeriod := by decide

/-- The bounds of both clauses, and an edge. -/
theorem witness_Comparator_half_range :
    2 ^ 31 - 1 < 2 ^ 31 ∧ 2 ^ 31 ≤ 2 ^ 31 ∧ ∃ t, exec .clk running = .next t := ⟨by decide, by decide, _, rfl⟩

theorem witness_Counter_is_free_running :
    (∃ t, exec .clk (inStep 1) = .next t) ∧ (∃ t, exec .t1dl (inStep 1) = .next t) := ⟨⟨_, rfl⟩, ⟨_, rfl⟩⟩

theorem witness_Pending_flag_has_one_setter :
    nextField (exec .clk { running with cnt := 5799 }) (fun t => t.pend) = some true ∧
    { running with cnt := 5799 }.pend = false ∧
    nextField (exec .t2clr (inStep 2)) (fun t => t.pend) = some false ∧ (inStep 2).pend = true := by decide

/-- A deadline one edge ahead, and one half a period ahead. -/
theorem witness_Pending_exactly_at_the_deadline :
    { running with cnt := 5799 }.pend = false ∧
    { running with cnt := 5799 }.deadline = { running with cnt := 5799 }.cnt + BitVec.ofNat 32 1 ∧
    { running with cnt := 0, deadline := 0x80000000 }.deadline =
      { running with cnt := 0, deadline := 0x80000000 }.cnt + BitVec.ofNat 32 (2 ^ 31) := by decide

/-- K7: the last count of a carrier period, and one edge. -/
theorem witness_Sample_takes_effect_at_the_next_carrier_period :
    { ready with ccnt := 255 }.cen = true ∧ { ready with ccnt := 255 }.ccnt.toNat < ready.cfg.carrierPeriod ∧
    ready.cfg.carrierPeriod ≤ 2 ^ 16 ∧ Instr.t3wr ∉ clks 1 ∧ Instr.csetup ∉ clks 1 ∧ Instr.reset ∉ clks 1 ∧
    ∃ t, runInstrs (clks 1) { ready with ccnt := 255 } = .next t :=
  ⟨by decide, by decide, by decide, by decide, by decide, by decide, _, rfl⟩

/-- The largest sample below the carrier period; and a period of two cycles with a `SETF` in it. -/
theorem witness_Duty_cycle_law :
    (let s : State := { ready with ccnt := 255, cmpreg := 255 }
     s.cen = true ∧ s.oen = true ∧ 1 ≤ s.cfg.carrierPeriod ∧ s.cfg.carrierPeriod ≤ 2 ^ 16 ∧
     s.ccnt.toNat = s.cfg.carrierPeriod - 1 ∧ s.cmpreg.toNat < s.cfg.carrierPeriod) ∧
    (let s : State := { ready with ccnt := 1, cmpreg := 1, cfg := { Cfg.default with carrierPeriod := 2 } }
     s.ccnt.toNat = s.cfg.carrierPeriod - 1 ∧ s.cmpreg.toNat < s.cfg.carrierPeriod ∧
     Instr.csetup ∉ [Instr.setf 50, .clk] ∧ Instr.reset ∉ [Instr.setf 50, .clk] ∧
     [Instr.clk, .setf 50, .clk].count .clk = s.cfg.carrierPeriod ∧
     ∃ t, runInstrs [.clk, .setf 50, .clk] s = .next t) :=
  ⟨by decide, by decide, by decide, by decide, by decide, by decide, _, rfl⟩

theorem witness_Output_lines :
    State.reset.oen = false ∧ ready.oen = true ∧ ready.pol = false ∧ { ready with pol := true }.pol = true := by decide

theorem witness_Access_matrix_frame :
    Reg.pend ∉ writes .t1dl ∧ ∃ t, exec .t1dl (inStep 1) = .next t := ⟨by decide, _, rfl⟩

/-- Two states that differ in a register `T1DL` does not read and in the draws: one step that completes, one that
faults; and a refused `CSETUP`, whose record shows `CEN`. -/
theorem witness_Access_matrix_noninterference :
    let s := inStep 1
    let s' : State := { inStep 1 with cmpact := 7, drawn := { agents := 1, commands := 1, resets := 1 } }
    (s.cfg = s'.cfg ∧ (Instr.t1dl = .reset → s.drawn = s'.drawn) ∧ (∀ r ∈ reads .t1dl, s.get r = s'.get r) ∧ s ≠ s' ∧
      ∃ t, exec .t1dl s = .next t) ∧
    exec .t1dl { s with outf := 0 } = .fault (.freqZero .t1dl) ∧
    (∀ r ∈ reads .csetup, running.get r = { running with cen := false }.get r) ∧
    exec .csetup running = .refused (.sequence .csetup true true) :=
  ⟨⟨rfl, nofun, by decide, by decide, _, rfl⟩, rfl, by decide, rfl⟩

theorem witness_Inv_holds_after_reset : AfterReset State.reset := witness_After_reset_the_block_waits

theorem witness_Inv_is_kept_by_every_turn :
    Inv { running with schedule := [.clock] } ∧ ∃ t, step { running with schedule := [.clock] } = .next t :=
  ⟨⟨inv_running.1, inv_running.2, inv_running.3, inv_running.4, inv_running.5, inv_running.6, inv_running.7,
    inv_running.8, inv_running.9, inv_running.10⟩, _, step_of_good default_good⟩

theorem witness_Inv_holds_in_every_reachable_state : Reachable State.reset :=
  .reset _ witness_After_reset_the_block_waits

theorem witness_Steps_stop_only_for_the_listed_causes :
    Inv (inStep 4) ∧ enabled .t4adv (inStep 4) = true ∧ Inv running ∧ enabled .csetup running = true :=
  ⟨inv_inStep 4 (by decide), by decide, inv_running, by decide⟩

theorem witness_Only_the_handler_writes_while_running :
    (inStep 4).run = true ∧
    nextField (exec .t4adv (inStep 4)) (fun t => decide (t.idx ≠ (inStep 4).idx)) = some true := by decide

theorem witness_Stopped_engine_stays_frozen :
    let s : State := { ready with pend := true, cmpreg := 239, idx := 42 }
    s.run = false ∧ s.hstep = 0 ∧ Instr.reset ∉ clks 2 ∧ (∀ f, Instr.start f ∉ clks 2) ∧ Instr.csetup ∉ clks 2 ∧
    ∃ t, runInstrs (clks 2) s = .next t := ⟨rfl, rfl, by decide, by simp [clks], by decide, _, rfl⟩

/-- One edge before the deadline: the flag rises in the one completed step. -/
theorem witness_Overrun_free_ticks_come_on_time :
    let s : State := { running with cnt := 5799 }
    s.cfg.matchMode = .reached ∧ Inv s ∧ (s.pend = false → ¬ deadlineReached s) ∧
    (s.hstep = 1 ∨ s.hstep = 2 → s.pend = true) ∧ Instr.reset ∉ clks 1 ∧ OverrunFreeModulo (clks 1) s ∧
    ∃ e ∈ completed (clks 1) s, e.before.pend = false ∧ e.after.pend = true :=
  ⟨rfl, ⟨inv_running.1, inv_running.2, inv_running.3, inv_running.4, inv_running.5, inv_running.6, inv_running.7,
      inv_running.8, inv_running.9, inv_running.10⟩,
    fun _ => by unfold deadlineReached; decide, by decide, by decide,
    by simp [OverrunFreeModulo, completed, clks], by simp [completed, clks, comparedPend, deadlineMatch]; decide⟩

/-- The default block right after `START 480000`, a period of one clock edge. -/
def started : State := { ready with run := true, outf := 480000, deadline := 1001, cnt := 1000 }

/-- Two ticks pend, at the first and the second edge, and the second one still waits in time. -/
theorem witness_Overrun_free_ticks_are_one_period_apart :
    let is : List Instr := [.clk] ++ tickSteps ++ [.clk]
    GoodCfg ready.cfg ∧ Instr.reset ∉ is ∧ Instr.stop ∉ is ∧ (∀ g, Instr.start g ∉ is) ∧ (∀ g, Instr.setf g ∉ is) ∧
    exec (.start 480000) { ready with cnt := 1000 } = .next started ∧ OverrunFree is started ∧
    (∃ u, runInstrs is started = .next u) ∧ pendingTrace is started = [1, 2] :=
  ⟨default_good, by decide, by decide, by simp [tickSteps, tickWithClks, clks], by simp [tickSteps, tickWithClks, clks],
    rfl, by unfold OverrunFree ServedInTime NoneLeftWaiting deadlineReached; decide, ⟨_, rfl⟩, by decide⟩

/-- R120: a tick that no `TENTER` serves before the following deadline is an overrun, and a `STOP` does not mend it; a
`STOP` before the tick leaves none to serve. -/
theorem test_unserved_tick_is_an_overrun :
    ¬ NoneLeftWaiting (clks 2) started ∧ ¬ NoneLeftWaiting (clks 2 ++ [.stop]) started ∧
    ¬ NoneLeftWaiting (clks 1 ++ [.stop, .clk, .start 480000]) started ∧ NoneLeftWaiting ([.stop] ++ clks 2) started := by
  unfold NoneLeftWaiting; decide

/-- A deadline five edges behind, under each match mode. -/
theorem witness_Late_tick_catches_up_or_is_lost :
    let s : State := { inStep 2 with cnt := 5805 }
    let s' : State := { s with cfg := { Cfg.default with matchMode := .equal } }
    (s.cnt - s.deadline).toNat + 1 < 2 ^ 31 ∧ s.cfg.matchMode = .reached ∧ s'.cfg.matchMode = .equal ∧
    1 ≤ 2 ^ 32 - (s'.cnt - s'.deadline).toNat ∧ (∃ t, exec .t2clr s = .next t) ∧ (∃ t, exec .t2clr s' = .next t) :=
  ⟨by decide, rfl, rfl, by decide, ⟨_, rfl⟩, ⟨_, rfl⟩⟩

/-! A fair infinite execution: the handler's micro-step whenever one is enabled, else a clock edge. -/

/-- The step the fair schedule takes. -/
def fairPick (s : State) : Instr := (handlerInstr s).getD .clk

/-- The state after it. -/
def fairNext (s : State) : State := (nextField (exec (fairPick s) s) id).getD s

/-- The states of the fair execution. -/
def fairStates : Nat → State
  | 0 => running
  | n + 1 => fairNext (fairStates n)

/-- What keeps the fair execution going. -/
structure FairState (s : State) : Prop where
  runs : s.run = true
  index : s.idx.toNat < 100
  frequency : s.outf = 100
  configuration : s.cfg = Cfg.default
  context : s.hstep = 0 ∨ s.hstep = 1 ∨ s.hstep = 2 ∨ s.hstep = 3 ∨ s.hstep = 4
  cleared : s.hstep = 3 ∨ s.hstep = 4 → s.pend = false

/-- How many micro-steps the fair schedule takes before its next clock edge. -/
def fairRank (s : State) : Nat := if s.hstep = 0 then if s.pend then 5 else 0 else 5 - s.hstep.toNat

/-- What the fair schedule does next: a step that completes, keeps `FairState`, and is a clock edge or brings one
nearer. -/
def FairStep (s : State) : Prop :=
  ∃ t, exec (fairPick s) s = .next t ∧ FairState t ∧ (fairPick s = .clk ∨ fairRank t < fairRank s)

theorem fairStep {s : State} (h : FairState s) : FairStep s := by
  obtain ⟨hr, hi, hf, hc, hs, hp⟩ := h
  unfold FairStep
  rcases hs with hs | hs | hs | hs | hs
  · cases hpd : s.pend with
    | true =>
      rw [show fairPick s = .tenter by simp [fairPick, handlerInstr, enabled, tickIrq, hr, hs, hpd]]
      exact ⟨enterHandler s, whenEnabled_of_enabled (i := .tenter) (by simp [enabled, tickIrq, hr, hs, hpd]) _,
        ⟨hr, hi, hf, hc, .inr (.inl rfl), by simp⟩, .inr (by simp [fairRank, hs, hpd])⟩
    | false =>
      rw [show fairPick s = .clk by simp [fairPick, handlerInstr, enabled, tickIrq, hs, hpd]]
      exact ⟨_, exec_clk, ⟨by simpa using hr, by simpa using hi, by simpa using hf, by simpa using hc,
        .inl (by simpa using hs), by simp [hs]⟩, .inl rfl⟩
  · rw [show fairPick s = .t1dl by simp [fairPick, handlerInstr, enabled, hs]]
    have hlegal : s.cfg.legalFrequency s.outf := by rw [hc, hf]; exact ⟨by decide, by decide⟩
    exact ⟨_, (whenEnabled_of_enabled (i := .t1dl) (by simp [enabled, hs]) _).trans (withLegalFrequency_of_legal _ hlegal),
      ⟨hr, hi, hf, hc, .inr (.inr (.inl rfl)), by simp⟩, .inr (by simp [fairRank, hs])⟩
  · rw [show fairPick s = .t2clr by simp [fairPick, handlerInstr, enabled, hs]]
    exact ⟨setHstep 3 (clearPend s), whenEnabled_of_enabled (i := .t2clr) (by simp [enabled, hs]) _,
      ⟨hr, hi, hf, hc, .inr (.inr (.inr (.inl rfl))), fun _ => rfl⟩, .inr (by simp [fairRank, hs])⟩
  · rw [show fairPick s = .t3wr by simp [fairPick, handlerInstr, enabled, hs]]
    refine ⟨setHstep 4 { s with cmpreg := s.cfg.table[s.idx.toNat] },
      (whenEnabled_of_enabled (i := .t3wr) (by simp [enabled, hs]) _).trans ?_,
      ⟨hr, hi, hf, hc, .inr (.inr (.inr (.inr rfl))), fun _ => hp (.inl hs)⟩, .inr (by simp [fairRank, hs])⟩
    rw [sample_of_lt hi]
  · rw [show fairPick s = .t4adv by simp [fairPick, handlerInstr, enabled, hs]]
    refine ⟨returnFromHandler { s with idx := nextIndex s.idx },
      (whenEnabled_of_enabled (i := .t4adv) (by simp [enabled, hs]) _).trans (if_neg (by omega)),
      ⟨hr, ?_, hf, hc, .inl rfl, by simp⟩, .inr (by simp [fairRank, hs, hp (.inr hs)])⟩
    rw [returnFromHandler_idx, nextIndex_toNat hi]
    omega

theorem fair_all (n : Nat) : FairState (fairStates n) ∧
    exec (fairPick (fairStates n)) (fairStates n) = .next (fairStates (n + 1)) := by
  have next_of {s : State} (h : FairState s) :
      FairState (fairNext s) ∧ exec (fairPick s) s = .next (fairNext s) := by
    obtain ⟨t, he, hf, -⟩ := fairStep h
    have : fairNext s = t := by simp [fairNext, he, nextField]
    exact this ▸ ⟨hf, he⟩
  induction n with
  | zero =>
    have h : FairState running := ⟨rfl, by decide, rfl, rfl, .inl rfl, by decide⟩
    exact ⟨h, (next_of h).2⟩
  | succ n ih =>
    have h := (next_of ih.1).1
    exact ⟨h, (next_of h).2⟩

theorem fair_clock (r n : Nat) (hr : fairRank (fairStates n) ≤ r) :
    ∃ m, n ≤ m ∧ fairPick (fairStates m) = .clk := by
  induction r generalizing n with
  | zero =>
    obtain ⟨t, he, -, h | h⟩ := fairStep (fair_all n).1
    · exact ⟨n, Nat.le_refl n, h⟩
    · omega
  | succ r ih =>
    obtain ⟨t, he, -, h | h⟩ := fairStep (fair_all n).1
    · exact ⟨n, Nat.le_refl n, h⟩
    · have ht := (fair_all n).2.symm.trans he
      cases ht
      obtain ⟨m, hm, h⟩ := ih (n + 1) (by omega)
      exact ⟨m, by omega, h⟩

theorem witness_Waveform_repeats_for_ever :
    ∃ steps states, IsExecution steps states ∧ Inv (states 0) ∧ (states 0).run = true ∧
      (∀ n, keepsRunning (steps n) = true) ∧ ClockFair steps ∧ HandlerFair steps states := by
  refine ⟨fun n => fairPick (fairStates n), fairStates, fun n => (fair_all n).2, inv_running, rfl, ?_, ?_, ?_⟩
  · intro n
    show keepsRunning (fairPick (fairStates n)) = true
    unfold fairPick handlerInstr
    split_ifs <;> rfl
  · exact fun n => fair_clock _ n (Nat.le_refl _)
  · intro i hi n he
    refine ⟨n, Nat.le_refl n, ?_⟩
    have he := he n (Nat.le_refl n)
    show fairPick (fairStates n) = i
    cases i <;> first
      | (simp_all [fairPick, handlerInstr, enabled, tickIrq]; done)
      | cases hi

theorem witness_Step_runs_the_decoded_command :
    let s : State := { running with schedule := [.host, .clock], commands := [0x400000032#35] }
    GoodCfg s.cfg ∧ s.hstep = 0 ∧ s.schedule = .host :: [.clock] ∧ s.commands = 0x400000032#35 :: [] ∧
    decode 0x400000032#35 = some (.setf 50) := ⟨default_good, rfl, rfl, rfl, by decide⟩

theorem witness_Step_refuses_a_reserved_word :
    let s : State := { running with schedule := [.host], commands := [0x500000000#35] }
    GoodCfg s.cfg ∧ s.hstep = 0 ∧ s.schedule = .host :: [] ∧ s.commands = 0x500000000#35 :: [] ∧
    5 ≤ ((0x500000000#35).extractLsb' 32 3).toNat := ⟨default_good, rfl, rfl, rfl, by decide⟩

theorem witness_Step_holds_a_command_in_handler_context :
    let s : State := { inStep 3 with schedule := [.host] }
    GoodCfg s.cfg ∧ s.hstep ≠ 0 ∧ s.schedule = .host :: [] := ⟨default_good, by decide, rfl⟩

/-- The handler with an enabled micro-step, and without one. -/
theorem witness_Step_of_the_other_agents :
    GoodCfg running.cfg ∧ Instr.tenter.inHandler = true ∧ enabled .tenter ticking = true ∧
    (∀ i, i.inHandler = true → enabled i running = false) :=
  ⟨default_good, rfl, by decide, by intro i h; cases i <;> first | rfl | cases h⟩

theorem witness_Every_turn_is_one_enabled_step : GoodCfg State.reset.cfg := default_good

/-- A requested tick and a command, both enabled (R116). -/
theorem witness_Every_enabled_step_can_go_next :
    GoodCfg ticking.cfg ∧ enabled .tenter ticking = true ∧ enabled .stop ticking = true :=
  ⟨default_good, by decide, by decide⟩

theorem witness_Placed_word_runs_next :
    GoodCfg (inStep 3).cfg ∧ decodeTableWord 40 0x100000000 = some .csetup := ⟨default_good, by decide⟩

theorem witness_Disabled_steps_are_refused_by_exec_only :
    enabled .stop (inStep 3) = false ∧ exec .stop (inStep 3) = .refused (.notEnabled .stop) := ⟨by decide, rfl⟩

theorem witness_Unreachable_states :
    let s : State := { inStep 1 with outf := 480001 }
    GoodCfg s.cfg ∧ s.hstep = 1 ∧ s.cfg.clockFrequency / 100 < s.outf.toNat ∧
    5 ≤ (inStep 5).hstep.toNat ∧ enabled .clk (inStep 5) = true := ⟨default_good, by decide⟩

end Sys2Proof.Tests
end

/-! PROOFS. The scope statements: the check of `cfg` (R6, R7), `TickPeriod` (R10), and what one turn of the machine
is (R12, R13, R76, R106). -/

namespace Sys2Proof.Machine

/-! ### The refusals of a step, and the check of `cfg` before it -/

/-- A refused step was not enabled, or its effect refuses. -/
theorem whenEnabled_refused {i : Instr} {s : State} {k : Result} {r : Refusal}
    (h : whenEnabled i s k = .refused r) : r = .notEnabled i ∨ k = .refused r := by
  cases he : enabled i s with
  | true => exact .inr (by rwa [whenEnabled_of_enabled he] at h)
  | false =>
    rw [whenEnabled_of_disabled he] at h
    cases h
    exact .inl rfl

/-- The frequency check raises faults only; a refusal comes from the rest of the step. -/
theorem withLegalFrequency_refused {i : Instr} {f : Word} {s : State} {k : Word → Result} {r : Refusal}
    (h : withLegalFrequency i f s k = .refused r) : ∃ p, k p = .refused r := by
  rw [withLegalFrequency_eq] at h
  split at h
  · cases h
  · split at h
    · cases h
    · exact ⟨_, h⟩

/-- Every refusal a step can raise, with its record (R110 causes 2 and 5, and the model's own). -/
theorem exec_refused_cases {i : Instr} {s : State} {r : Refusal} (h : exec i s = .refused r) :
    r = .notEnabled i ∨ r = .sequence i s.run s.cen ∨ r = .indexRange s.idx := by
  cases i with
  | clk => cases h
  | reset => cases h
  | nop | stop | tenter | t2clr =>
    obtain hr | hr := whenEnabled_refused h
    · exact .inl hr
    · cases hr
  | csetup =>
    obtain hr | hr := whenEnabled_refused h
    · exact .inl hr
    · split at hr <;> cases hr
      exact .inr (.inl rfl)
  | start f =>
    obtain hr | hr := whenEnabled_refused h
    · exact .inl hr
    · split at hr
      · cases hr
        exact .inr (.inl rfl)
      · split at hr
        · cases hr
          exact .inr (.inl rfl)
        · obtain ⟨p, hp⟩ := withLegalFrequency_refused hr
          cases hp
  | setf f | t1dl =>
    obtain hr | hr := whenEnabled_refused h
    · exact .inl hr
    · obtain ⟨p, hp⟩ := withLegalFrequency_refused hr
      cases hp
  | t3wr | t4adv =>
    obtain hr | hr := whenEnabled_refused h
    · exact .inl hr
    · split at hr <;> cases hr
      exact .inr (.inr rfl)

/-- `BAD_CFG` is raised by the check before a turn, never by the turn itself. -/
theorem runTurn_ne_badCfg (τ : Turn) (k : CfgConstraint) : runTurn τ ≠ .refused (.badCfg k) := by
  cases τ with
  | run i u =>
    intro h
    obtain hr | hr | hr := exec_refused_cases h <;> cases hr
  | idle u => simp [runTurn]
  | illegal w => simp [runTurn]

/-- A `cfg` that breaks R7 has a violation on record, and it is a constraint that `cfg` breaks. -/
theorem violation_of_not_good {c : Cfg} (h : ¬ GoodCfg c) :
    ∃ k, c.violation = some k ∧ c.meets k = false := by
  cases hv : c.violation with
  | none => exact absurd ((violation_eq_none_iff c).1 hv) h
  | some k => exact ⟨k, rfl, by simpa using List.find?_some hv⟩

theorem step_of_violation {s : State} {k : CfgConstraint} (h : s.cfg.violation = some k) :
    step s = .refused (.badCfg k) := by
  rw [step, withGoodCfg, h]

/-! ### The value of `TickPeriod` -/

/-- The quotient of R10 fits in a word: no bit of it is lost. -/
theorem period_toNat {c : Cfg} (hc : c.clockFrequency < 2 ^ 32) (f : Word) :
    (BitVec.ofNat 32 (c.clockFrequency / f.toNat / 100)).toNat = c.clockFrequency / f.toNat / 100 := by
  rw [BitVec.toNat_ofNat]
  refine Nat.mod_eq_of_lt (lt_of_le_of_lt ?_ hc)
  exact (Nat.div_le_self _ _).trans (Nat.div_le_self _ _)

theorem tickPeriod_eq_none_iff (c : Cfg) (f : Word) : c.tickPeriod f = none ↔ f = 0 := by
  simp [Cfg.tickPeriod]

/-- The two truncating divisions of R10 are one division by `100 f`. -/
theorem div_div_hundred (n f : Nat) : n / f / 100 = n / (100 * f) := by
  rw [Nat.div_div_eq_div_mul, Nat.mul_comm]

/-- The period of a legal frequency is at least 1 (R10). -/
theorem one_le_period {n f : Nat} (h1 : 1 ≤ f) (hf : f ≤ n / 100) : 1 ≤ n / f / 100 := by
  rw [div_div_hundred]
  exact Nat.div_pos (by omega) (by omega)

/-- No period is longer than that of 1 Hz (R10). -/
theorem period_le (n f : Nat) : n / f / 100 ≤ n / 100 := Nat.div_le_div_right (Nat.div_le_self n f)

/-- Above `F_MAX` the interval is zero (R10). -/
theorem tickPeriod_above_fMax {c : Cfg} {f : Word} (h : c.clockFrequency / 100 < f.toNat) :
    c.tickPeriod f = some 0 := by
  have h0 : c.clockFrequency / f.toNat / 100 = 0 := by
    rw [div_div_hundred]
    exact Nat.div_eq_of_lt (by omega)
  rw [tickPeriod_of_ne_zero (ne_zero_of_one_le (by omega)), h0]
  rfl

/-- `F_MAX` has period 1 (R10). -/
theorem tickPeriod_at_fMax {c : Cfg} {f : Word} (hc : 100 ≤ c.clockFrequency)
    (h : f.toNat = c.clockFrequency / 100) : c.tickPeriod f = some 1 := by
  have h1 : c.clockFrequency / f.toNat / 100 = 1 := by
    rw [div_div_hundred]
    exact Nat.div_eq_of_lt_le (by omega) (by omega)
  rw [tickPeriod_of_ne_zero (ne_zero_of_one_le (by omega)), h1]
  rfl

/-! ### The handler's turn -/

/-- The handler micro-steps exclude each other, so the enabled one is the one the handler takes (R76). -/
theorem handlerInstr_of_enabled {i : Instr} {s : State} (hi : i.inHandler = true) (he : enabled i s = true) :
    handlerInstr s = some i := by
  cases i with
  | nop | csetup | start f | stop | setf f | clk | reset => cases hi
  | tenter => simp only [handlerInstr, he, if_true]
  | t1dl | t2clr | t3wr | t4adv =>
    have hk := he
    simp only [enabled, beq_iff_eq] at hk
    simp [handlerInstr, enabled, hk]

theorem handlerInstr_of_disabled {s : State} (h : ∀ i, i.inHandler = true → enabled i s = false) :
    handlerInstr s = none := by
  simp [handlerInstr, h .tenter rfl, h .t1dl rfl, h .t2clr rfl, h .t3wr rfl, h .t4adv rfl]

/-- A turn the schedule names is that agent's turn (R13, R106). -/
theorem step_of_schedule {s : State} {a : Agent} {rest : List Agent} (hg : GoodCfg s.cfg)
    (h : s.schedule = a :: rest) : step s = runTurn (agentTurn a { s with schedule := rest }) := by
  rw [step_of_good hg, nextTurn_of_schedule h]

theorem runTurn_handler_of_some {s : State} {i : Instr} (h : handlerInstr s = some i) :
    runTurn (agentTurn .handler s) = exec i s := by
  simp only [agentTurn, handlerTurn, h, runTurn]

theorem runTurn_handler_of_none {s : State} (h : handlerInstr s = none) :
    runTurn (agentTurn .handler s) = .next s := by
  simp only [agentTurn, handlerTurn, h, runTurn]

/-! ### The symmetry of the table -/

/-- A table whose entries from 1 on read the same backwards is symmetric about the half period (R53). -/
theorem sample_mirror {c : Cfg} (h : c.table.toList.tail.reverse = c.table.toList.tail) {n : Nat} (h1 : 1 ≤ n)
    (hn : n < 100) : c.sample n = c.sample (100 - n) := by
  have read {i : Nat} (hi : 1 ≤ i) : c.sample i = c.table.toList.tail[i - 1]? := by
    rw [List.getElem?_tail, Nat.sub_add_cancel hi, Vector.getElem?_toList]
    rfl
  have hlen : c.table.toList.tail.length = 99 := by simp
  rw [read h1, read (by omega), ← h, List.getElem?_reverse (by omega), hlen, h]
  congr 1
  omega

/-! ### The statements -/

/-- Settles O5: the executable check agrees with R7, a turn itself never raises `BAD_CFG`, and the check reports the
first constraint that `cfg` does not meet. -/
theorem bad_cfg_is_refused_before_any_step : Obligations.Bad_cfg_is_refused_before_any_step := by
  intro s
  refine ⟨goodCfg_iff_meets s.cfg, fun hg k => ?_, fun hb => ?_⟩
  · rw [step_of_good hg]
    exact runTurn_ne_badCfg _ k
  · obtain ⟨k, hv, hk⟩ := violation_of_not_good hb
    exact ⟨k, step_of_violation hv, hk⟩

/-- Settles O7: the two divisions are one division by `100 f`, compared with `F_MAX = C / 100`. -/
theorem tickPeriod_of_legal_and_illegal_frequencies :
    Obligations.TickPeriod_of_legal_and_illegal_frequencies := by
  intro c f hg
  refine ⟨tickPeriod_eq_none_iff c f, fun h1 hle => ?_, tickPeriod_above_fMax, tickPeriod_at_fMax hg.clockLow⟩
  refine ⟨_, tickPeriod_of_ne_zero (ne_zero_of_one_le h1), ?_⟩
  rw [period_toNat hg.clockHigh]
  have hmax := period_le c.clockFrequency f.toNat
  have hclock := hg.clockHigh
  exact ⟨rfl, div_div_hundred _ _, one_le_period h1 hle, hmax, by omega⟩

/-- Settles O50: the three kinds of turn are the three clauses. -/
theorem every_turn_is_one_enabled_step : Obligations.Every_turn_is_one_enabled_step := by
  intro s hg
  have hturn := nextTurn_cases s
  rw [step_of_good hg]
  cases hn : nextTurn s with
  | run i u =>
    rw [hn] at hturn
    obtain ⟨hsame, he⟩ := hturn
    exact .inl ⟨i, u, hsame, he, rfl⟩
  | idle u =>
    rw [hn] at hturn
    exact .inr (.inl ⟨u, hturn, rfl⟩)
  | illegal w =>
    rw [hn] at hturn
    obtain ⟨hz, hd⟩ := hturn
    exact .inr (.inr ⟨w, hz, hd, rfl⟩)

/-- Settles O6: the checks of R7 and R53, evaluated on the default column of R6 and its table; the symmetry is that of
the image read backwards. -/
theorem default_cfg_is_good : Obligations.Default_cfg_is_good :=
  ⟨(violation_eq_none_iff _).1 (by decide), rfl, rfl, rfl, rfl, rfl, rfl, by decide, by decide, by decide, by decide,
    by decide, fun _ hn h1 => sample_mirror (by decide) h1 (List.mem_range.1 hn)⟩

/-- Settles O49: the scheduled agent's turn, and for the handler the one micro-step that `HSTEP` enables. -/
theorem step_of_the_other_agents : Obligations.Step_of_the_other_agents := by
  intro s rest hg
  refine ⟨fun h => step_of_schedule hg h, fun h => step_of_schedule hg h, fun h => ?_⟩
  have hsame : SameRegisters s { s with schedule := rest } := rfl
  rw [step_of_schedule hg h]
  constructor
  · intro i hi he
    exact runTurn_handler_of_some (handlerInstr_of_enabled hi ((enabled_congr hsame i).trans he))
  · intro hd
    exact runTurn_handler_of_none (handlerInstr_of_disabled fun i hi => (enabled_congr hsame i).trans (hd i hi))

end Sys2Proof.Machine

/-! PROOFS. The state statements: the invariants I1 to I8 (R39), the access matrix of R38 in both directions, the one
setter of `PEND` (R22), the lines the block drives (R37), and the draws of a reset (R40). -/

namespace Sys2Proof.Machine

/-! ### The invariants (R39) -/

/-- The invariants speak of `cfg` and the registers only. -/
theorem Inv.of_sameRegisters {s u : State} (hs : Inv s) (h : SameRegisters s u) : Inv u := by
  rw [h]
  exact { hs with }

theorem GoodCfg.zero_lt_carrierPeriod {c : Cfg} (h : GoodCfg c) : 0 < c.carrierPeriod :=
  Nat.lt_of_lt_of_le (by decide) h.carrierLow

/-- The reset values meet I1 to I8, whatever `CNT` and `DEADLINE` are drawn as (R40). -/
theorem inv_resetRegisters {s : State} (hg : GoodCfg s.cfg) (c d : Word) : Inv (resetRegisters c d s) where
  cfgGood := hg
  idxRange := by simp
  hstepRange := by simp
  handlerRuns := fun h => absurd rfl h
  outfLegal := hg.defaultFrequency
  cmpregRange := hg.zero_lt_carrierPeriod
  cmpactRange := hg.zero_lt_carrierPeriod
  ccntRange := hg.zero_lt_carrierPeriod
  runNeedsCarrier := nofun
  outputWithCarrier := rfl

/-- Counting the draw touches no register. -/
theorem countReset_same (s : State) : SameRegisters s (countReset s) := rfl

/-- The carrier setup starts from 0 with zero duty and turns the output on with the carrier (R81; I5 to I8). -/
theorem Inv.setupCarrier {s : State} (hs : Inv s) : Inv (setupCarrier s) :=
  { hs with
    cmpregRange := hs.cfgGood.zero_lt_carrierPeriod
    cmpactRange := hs.cfgGood.zero_lt_carrierPeriod
    ccntRange := hs.cfgGood.zero_lt_carrierPeriod
    runNeedsCarrier := fun _ => rfl
    outputWithCarrier := rfl }

/-- A carrier count below the period that is not its last one can count on without leaving the period (R103). -/
theorem ccnt_succ_lt {p : Nat} {c : Sample} (hp : p ≤ 2 ^ 16) (hc : c.toNat < p) (hlast : c.toNat + 1 ≠ p) :
    (c + 1).toNat < p := by
  have hadd : (c + 1).toNat = (c.toNat + 1) % 2 ^ 16 := BitVec.toNat_add c 1
  omega

/-- A clock edge keeps the invariants: the carrier count wraps at the period (I7), and what is loaded into `CMPACT`
there is the legal `CMPREG` (I6). -/
theorem Inv.clockEdge {s : State} (hs : Inv s) : Inv (carrierEdge (tickTimerEdge s)) where
  cfgGood := by simpa using hs.cfgGood
  idxRange := by simpa using hs.idxRange
  hstepRange := by simpa using hs.hstepRange
  handlerRuns := by simpa using hs.handlerRuns
  outfLegal := by simpa using hs.outfLegal
  cmpregRange := by simpa using hs.cmpregRange
  cmpactRange := by
    rw [clockEdge_cmpact, carrierEdge_cfg, tickTimerEdge_cfg]
    split
    · exact hs.cmpregRange
    · exact hs.cmpactRange
  ccntRange := by
    rw [clockEdge_ccnt, carrierEdge_cfg, tickTimerEdge_cfg]
    split
    · split
      · exact hs.cfgGood.zero_lt_carrierPeriod
      · exact ccnt_succ_lt hs.cfgGood.carrierHigh hs.ccntRange ‹_›
    · exact hs.ccntRange
  runNeedsCarrier := by simpa using hs.runNeedsCarrier
  outputWithCarrier := by simpa using hs.outputWithCarrier

/-- Moving the sequencer within the handler keeps the invariants: `RUN` is 1 there (I2, I3). -/
theorem Inv.setHstep {s : State} (hs : Inv s) {k : HandlerStep} (hk : k.toNat ≤ 4) (hrun : s.run = true) :
    Inv (setHstep k s) :=
  { hs with
    hstepRange := hk
    handlerRuns := fun _ => hrun }

/-- Every step of R12 that completes keeps the invariants (R39). -/
theorem exec_keeps_inv {i : Instr} {s t : State} (hs : Inv s) (h : exec i s = .next t) : Inv t := by
  cases i with
  | nop => rwa [exec_nop_next h]
  | csetup =>
    obtain ⟨-, rfl⟩ := exec_csetup_next h
    exact hs.setupCarrier
  | start f =>
    obtain ⟨-, hcen, hf, rfl⟩ := exec_start_next h
    exact { hs with
      idxRange := by simp
      handlerRuns := fun _ => rfl
      outfLegal := hf
      runNeedsCarrier := fun _ => hcen }
  | stop =>
    have hthread : s.hstep = 0 := (cmdReady_iff s).1 (exec_next_enabled h)
    obtain rfl := exec_stop_next h
    exact { hs with
      handlerRuns := fun hne => absurd hthread hne
      runNeedsCarrier := nofun }
  | setf f =>
    obtain ⟨hf, rfl⟩ := exec_setf_next h
    exact { hs with outfLegal := hf }
  | tenter =>
    obtain ⟨hrun, -, -, rfl⟩ := exec_tenter_next h
    exact hs.setHstep (by decide) hrun
  | t1dl =>
    obtain ⟨hstep, -, rfl⟩ := exec_t1dl_next h
    have hrun := hs.handlerRuns (by simp [hstep])
    exact { hs.setHstep (k := 2) (by decide) hrun with }
  | t2clr =>
    obtain ⟨hstep, rfl⟩ := exec_t2clr_next h
    have hrun := hs.handlerRuns (by simp [hstep])
    exact { hs.setHstep (k := 3) (by decide) hrun with }
  | t3wr =>
    obtain ⟨hstep, v, hv, rfl⟩ := exec_t3wr_next h
    have hrun := hs.handlerRuns (by simp [hstep])
    exact { hs.setHstep (k := 4) (by decide) hrun with cmpregRange := hs.cfgGood.tableRange _ v hv }
  | t4adv =>
    obtain ⟨hstep, hidx, rfl⟩ := exec_t4adv_next h
    have hrun := hs.handlerRuns (by simp [hstep])
    have hnext : (nextIndex s.idx).toNat ≤ 99 := by
      rw [nextIndex_toNat hidx]
      omega
    exact { hs.setHstep (k := 0) (by decide) hrun with idxRange := hnext }
  | clk =>
    obtain rfl := exec_clk_next h
    exact hs.clockEdge
  | reset =>
    obtain rfl := exec_reset_next h
    exact (inv_resetRegisters hs.cfgGood _ _).of_sameRegisters (countReset_same _)

/-- Settles O38: a turn that completes is an enabled step in the same registers, which keeps the invariants, or it
touches no register. -/
theorem inv_is_kept_by_every_turn : Obligations.Inv_is_kept_by_every_turn := by
  intro s t hs h
  have hturn := nextTurn_cases s
  replace h := step_next h
  cases hn : nextTurn s with
  | run i u =>
    rw [hn] at hturn h
    obtain ⟨hsame, -⟩ := hturn
    exact exec_keeps_inv (hs.of_sameRegisters hsame) h
  | idle u =>
    rw [hn] at hturn h
    cases h
    exact hs.of_sameRegisters hturn
  | illegal w =>
    rw [hn] at h
    cases h

/-- Settles O37: the registers are at their reset values, for some draw. -/
theorem inv_holds_after_reset : Obligations.Inv_holds_after_reset := by
  rintro s ⟨hg, c, d, hsame⟩
  exact (inv_resetRegisters hg c d).of_sameRegisters hsame

/-- Settles O39, by induction on how the state is reached. -/
theorem inv_holds_in_every_reachable_state : Obligations.Inv_holds_in_every_reachable_state := by
  intro s h
  induction h with
  | reset s h => exact inv_holds_after_reset s h
  | step s t _ hstep ih => exact inv_is_kept_by_every_turn s t ih hstep

/-! ### Registers as numbers (R8) -/

theorem bool_toNat_inj {a b : Bool} : a.toNat = b.toNat ↔ a = b := by
  cases a <;> cases b <;> decide

section
variable {s t : State}

@[simp] theorem get_run_inj : s.get .run = t.get .run ↔ s.run = t.run := bool_toNat_inj
@[simp] theorem get_idx_inj : s.get .idx = t.get .idx ↔ s.idx = t.idx := BitVec.toNat_inj
@[simp] theorem get_outf_inj : s.get .outf = t.get .outf ↔ s.outf = t.outf := BitVec.toNat_inj
@[simp] theorem get_deadline_inj : s.get .deadline = t.get .deadline ↔ s.deadline = t.deadline := BitVec.toNat_inj
@[simp] theorem get_cnt_inj : s.get .cnt = t.get .cnt ↔ s.cnt = t.cnt := BitVec.toNat_inj
@[simp] theorem get_pend_inj : s.get .pend = t.get .pend ↔ s.pend = t.pend := bool_toNat_inj
@[simp] theorem get_hstep_inj : s.get .hstep = t.get .hstep ↔ s.hstep = t.hstep := BitVec.toNat_inj
@[simp] theorem get_cen_inj : s.get .cen = t.get .cen ↔ s.cen = t.cen := bool_toNat_inj
@[simp] theorem get_ccnt_inj : s.get .ccnt = t.get .ccnt ↔ s.ccnt = t.ccnt := BitVec.toNat_inj
@[simp] theorem get_cmpreg_inj : s.get .cmpreg = t.get .cmpreg ↔ s.cmpreg = t.cmpreg := BitVec.toNat_inj
@[simp] theorem get_cmpact_inj : s.get .cmpact = t.get .cmpact ↔ s.cmpact = t.cmpact := BitVec.toNat_inj
@[simp] theorem get_oen_inj : s.get .oen = t.get .oen ↔ s.oen = t.oen := bool_toNat_inj
@[simp] theorem get_pol_inj : s.get .pol = t.get .pol ↔ s.pol = t.pol := bool_toNat_inj

end

/-! ### The frame of every step (R38, the `w` entries) -/

/-- A register outside the step's column keeps its value. -/
theorem exec_keeps_get {i : Instr} {s t : State} {r : Reg} (h : exec i s = .next t) (hr : r ∉ writes i) :
    t.get r = s.get r := by
  cases i with
  | nop => rw [exec_nop_next h]
  | csetup =>
    obtain ⟨-, rfl⟩ := exec_csetup_next h
    cases r <;> simp [writes] at hr ⊢
  | start f =>
    obtain ⟨-, -, -, rfl⟩ := exec_start_next h
    cases r <;> simp [writes] at hr ⊢
  | stop =>
    obtain rfl := exec_stop_next h
    cases r <;> simp [writes] at hr ⊢
  | setf f =>
    obtain ⟨-, rfl⟩ := exec_setf_next h
    cases r <;> simp [writes] at hr ⊢
  | tenter =>
    obtain ⟨-, -, -, rfl⟩ := exec_tenter_next h
    cases r <;> simp [writes] at hr ⊢
  | t1dl =>
    obtain ⟨-, -, rfl⟩ := exec_t1dl_next h
    cases r <;> simp [writes] at hr ⊢
  | t2clr =>
    obtain ⟨-, rfl⟩ := exec_t2clr_next h
    cases r <;> simp [writes] at hr ⊢
  | t3wr =>
    obtain ⟨-, v, -, rfl⟩ := exec_t3wr_next h
    cases r <;> simp [writes] at hr ⊢
  | t4adv =>
    obtain ⟨-, -, rfl⟩ := exec_t4adv_next h
    cases r <;> simp [writes] at hr ⊢
  | clk =>
    obtain rfl := exec_clk_next h
    cases r <;> simp [writes] at hr ⊢
  | reset => cases r <;> simp [writes] at hr

/-- No step writes the host's words or the schedule, and only `RESET` takes a draw (log entries 4, 5, 6, 19). -/
theorem exec_keeps_environment {i : Instr} {s t : State} (h : exec i s = .next t) :
    t.commands = s.commands ∧ t.schedule = s.schedule ∧ (i ≠ .reset → t.drawn = s.drawn) := by
  cases i with
  | nop => simp [exec_nop_next h]
  | csetup => simp [(exec_csetup_next h).2]
  | start f => simp [(exec_start_next h).2.2.2]
  | stop => simp [exec_stop_next h]
  | setf f => simp [(exec_setf_next h).2]
  | tenter => simp [(exec_tenter_next h).2.2.2]
  | t1dl => simp [(exec_t1dl_next h).2.2]
  | t2clr => simp [(exec_t2clr_next h).2]
  | t3wr =>
    obtain ⟨-, v, -, rfl⟩ := exec_t3wr_next h
    simp
  | t4adv => simp [(exec_t4adv_next h).2.2]
  | clk => simp [exec_clk_next h]
  | reset => simp [exec_reset_next h]

/-- Settles O35: the frame of the registers, of `cfg`, and of the environment's side. -/
theorem access_matrix_frame : Obligations.Access_matrix_frame := fun _ _ _ h =>
  ⟨fun _ hr => exec_keeps_get h hr, exec_keeps_cfg h, exec_keeps_environment h⟩

/-- A step whose column does not write `PEND` keeps it (R22). -/
theorem exec_keeps_pend {i : Instr} {s t : State} (h : exec i s = .next t) (hi : Reg.pend ∉ writes i) :
    t.pend = s.pend :=
  get_pend_inj.1 (exec_keeps_get h hi)

/-- Settles O30: of the four steps that write `PEND`, three clear it and the comparator of `CLK` only sets it. -/
theorem pending_flag_has_one_setter : Obligations.Pending_flag_has_one_setter := by
  intro i s t h
  cases i with
  | nop | csetup | stop | setf f | tenter | t1dl | t3wr | t4adv =>
    have hkept := exec_keeps_pend h (by simp [writes])
    simp [hkept]
  | start f =>
    obtain ⟨-, -, -, rfl⟩ := exec_start_next h
    simp
  | t2clr =>
    obtain ⟨-, rfl⟩ := exec_t2clr_next h
    simp
  | reset =>
    obtain rfl := exec_reset_next h
    simp
  | clk =>
    obtain rfl := exec_clk_next h
    simp +contextual [comparedPend]

/-! ### What a step depends on (R38, the `r` entries) -/

/-- Two outcomes of the step `i`, from `s` and from `s'`, that agree as R38 asks: both complete with the same values
in the registers of its column (or each leaves such a register as it was), or both stop for the same cause, the
record of a refused `CSETUP` excepted. -/
def SameOutcome (i : Instr) (s s' : State) (k k' : Result) : Prop :=
  (∀ t, k = .next t → ∃ t', k' = .next t' ∧
    ∀ r ∈ writes i, t.get r = t'.get r ∨ (t.get r = s.get r ∧ t'.get r = s'.get r)) ∧
  (∀ r, k = .fault r → k' = .fault r) ∧
  (∀ r, k = .refused r → k' = .refused r ∨
    (i = .csetup ∧ r = .sequence .csetup true s.cen ∧ k' = .refused (.sequence .csetup true s'.cen)))

section
variable {i : Instr} {s s' : State}

theorem SameOutcome.next {t t' : State}
    (h : ∀ r ∈ writes i, t.get r = t'.get r ∨ (t.get r = s.get r ∧ t'.get r = s'.get r)) :
    SameOutcome i s s' (.next t) (.next t') :=
  ⟨fun _ ht => ⟨t', rfl, by cases ht; exact h⟩, nofun, nofun⟩

theorem SameOutcome.fault (r : Fault) : SameOutcome i s s' (.fault r) (.fault r) :=
  ⟨nofun, fun _ h => h, nofun⟩

theorem SameOutcome.refused (r : Refusal) : SameOutcome i s s' (.refused r) (.refused r) :=
  ⟨nofun, nofun, fun _ h => .inl h⟩

/-- Enabling is the same in both states, and where it holds the effects agree. -/
theorem SameOutcome.whenEnabled {k k' : Result} (he : enabled i s = enabled i s')
    (h : SameOutcome i s s' k k') : SameOutcome i s s' (whenEnabled i s k) (whenEnabled i s' k') := by
  unfold Machine.whenEnabled
  rw [he]
  split
  · exact h
  · exact .refused _

/-- The frequency check reads `cfg` only. -/
theorem SameOutcome.withLegalFrequency {j : Instr} {f f' : Word} {k k' : Word → Result} (hcfg : s.cfg = s'.cfg)
    (hf : f = f') (h : ∀ p, SameOutcome i s s' (k p) (k' p)) :
    SameOutcome i s s' (withLegalFrequency j f s k) (withLegalFrequency j f' s' k') := by
  rw [withLegalFrequency_eq, withLegalFrequency_eq, hcfg, hf]
  split
  · exact .fault _
  · split
    · exact .fault _
    · exact h _

/-- Every enabling condition is over registers the step's column lists as read (R38, R70, R76). -/
theorem enabled_of_reads (h : ∀ r ∈ reads i, s.get r = s'.get r) : enabled i s = enabled i s' := by
  cases i with
  | clk | reset => rfl
  | tenter =>
    obtain ⟨hrun, hpend, hstep⟩ : s.run = s'.run ∧ s.pend = s'.pend ∧ s.hstep = s'.hstep := by
      simpa [reads] using h
    simp only [enabled, tickIrq, hrun, hpend, hstep]
  | nop | csetup | start f | stop | setf f | t1dl | t2clr | t3wr | t4adv =>
    have hstep : s.hstep = s'.hstep := get_hstep_inj.1 (h .hstep (by simp [reads]))
    simp only [enabled, cmdReady, hstep]

/-- Where the carrier agrees, an edge loads the same `CMPREG` into `CMPACT` in both states, or leaves it in both. -/
theorem clockEdge_cmpact_agrees (hcfg : s.cfg = s'.cfg) (hcen : s.cen = s'.cen) (hccnt : s.ccnt = s'.ccnt)
    (hcmpreg : s.cmpreg = s'.cmpreg) :
    (carrierEdge (tickTimerEdge s)).cmpact = (carrierEdge (tickTimerEdge s')).cmpact ∨
      ((carrierEdge (tickTimerEdge s)).cmpact = s.cmpact ∧ (carrierEdge (tickTimerEdge s')).cmpact = s'.cmpact) := by
  rw [clockEdge_cmpact, clockEdge_cmpact, hcfg, hcen, hccnt, hcmpreg]
  split
  · exact .inl rfl
  · exact .inr ⟨rfl, rfl⟩

end

/-- Settles O36: each step is its enabling condition and its checks, over registers that agree, and then an effect
whose written values come from registers that agree. -/
theorem access_matrix_noninterference : Obligations.Access_matrix_noninterference := by
  intro i s s' hcfg hdraw hreads
  have hen := enabled_of_reads hreads
  change SameOutcome i s s' (exec i s) (exec i s')
  cases i with
  | nop => exact .whenEnabled hen (.next nofun)
  | csetup =>
    obtain ⟨hrun, -⟩ : s.run = s'.run ∧ s.hstep = s'.hstep := by
      simpa [reads] using hreads
    refine .whenEnabled hen ?_
    rw [hrun]
    cases s'.run with
    | true => exact ⟨nofun, nofun, fun r hr => by cases hr; exact .inr ⟨rfl, rfl, rfl⟩⟩
    | false => exact .next (by simp [writes, hcfg])
  | start f =>
    obtain ⟨hrun, hcnt, -, hcen⟩ :
        s.run = s'.run ∧ s.cnt = s'.cnt ∧ s.hstep = s'.hstep ∧ s.cen = s'.cen := by
      simpa [reads] using hreads
    refine .whenEnabled hen ?_
    rw [hrun, hcen]
    split
    · exact .refused _
    · split
      · exact .refused _
      · exact .withLegalFrequency hcfg rfl fun p => .next (by simp [writes, hcnt])
  | stop => exact .whenEnabled hen (.next (by simp [writes]))
  | setf f => exact .whenEnabled hen (.withLegalFrequency hcfg rfl fun _ => .next (by simp [writes]))
  | tenter => exact .whenEnabled hen (.next (by simp [writes]))
  | t1dl =>
    obtain ⟨houtf, hdeadline, -⟩ : s.outf = s'.outf ∧ s.deadline = s'.deadline ∧ s.hstep = s'.hstep := by
      simpa [reads] using hreads
    exact .whenEnabled hen (.withLegalFrequency hcfg houtf fun p => .next (by simp [writes, hdeadline]))
  | t2clr => exact .whenEnabled hen (.next (by simp [writes]))
  | t3wr =>
    obtain ⟨hidx, -⟩ : s.idx = s'.idx ∧ s.hstep = s'.hstep := by
      simpa [reads] using hreads
    refine .whenEnabled hen ?_
    rw [hcfg, hidx]
    split
    · exact .refused _
    · exact .next (by simp [writes])
  | t4adv =>
    obtain ⟨hidx, -⟩ : s.idx = s'.idx ∧ s.hstep = s'.hstep := by
      simpa [reads] using hreads
    refine .whenEnabled hen ?_
    rw [hidx]
    split
    · exact .refused _
    · exact .next (by simp [writes, hidx])
  | clk =>
    obtain ⟨hdeadline, hcnt, hpend, hcen, hccnt, hcmpreg⟩ : s.deadline = s'.deadline ∧ s.cnt = s'.cnt ∧
        s.pend = s'.pend ∧ s.cen = s'.cen ∧ s.ccnt = s'.ccnt ∧ s.cmpreg = s'.cmpreg := by
      simpa [reads] using hreads
    have hcmpact := clockEdge_cmpact_agrees hcfg hcen hccnt hcmpreg
    exact .next (by
      simp [writes, hcmpact, clockEdge_ccnt, comparedPend, hcfg, hdeadline, hcnt, hpend, hcen, hccnt])
  | reset =>
    have hdrawn := hdraw rfl
    exact .next (by simp [writes, hcfg, hdrawn])

/-! ### The lines the block drives and the draws of a reset (R37, R40) -/

/-- Settles O34: the pin by `OEN` and `POL`, and each line by its definition. -/
theorem output_lines : Obligations.Output_lines := by
  intro s
  refine ⟨fun ho => ?_, fun ho hp => ?_, fun ho hp => ?_, ?_, cmdReady_iff s⟩
  · simp [pwmOut, ho]
  · simp [pwmOut, carrierActive, ho, hp]
  · simp [pwmOut, carrierActive, ho, hp]
  · simp [tickIrq]

/-- Settles O9: the state after `RESET` is the drawn reset registers with the draw counted. -/
theorem reset_draws_fresh_values : Obligations.Reset_draws_fresh_values := by
  intro s t h
  obtain rfl := exec_reset_next h
  exact ⟨rfl, rfl, rfl, rfl, rfl⟩

end Sys2Proof.Machine

namespace Sys2Proof.Machine

/-! ### The one writer of `IDX`, `DEADLINE` and `CMPREG` while the engine runs (R63, R148) -/

/-- A register that a step changes is one its column writes (R38). -/
theorem mem_writes_of_get_ne {i : Instr} {s t : State} {r : Reg} (h : exec i s = .next t)
    (hne : t.get r ≠ s.get r) : r ∈ writes i :=
  not_imp_comm.1 (exec_keeps_get h) hne

/-- `CSETUP` and `START` write the three registers too, but neither completes while the engine runs (R81, R82). -/
theorem writer_in_handler_of_running {i : Instr} {s t : State} (h : exec i s = .next t) (hrun : s.run = true)
    (hreset : i ≠ .reset) (hw : Reg.idx ∈ writes i ∨ Reg.deadline ∈ writes i ∨ Reg.cmpreg ∈ writes i) :
    i.inHandler = true ∧ s.hstep ≠ 0 := by
  cases i with
  | nop | stop | setf f | tenter | t2clr | clk => simp [writes] at hw
  | csetup =>
    obtain ⟨hstopped, -⟩ := exec_csetup_next h
    simp [hrun] at hstopped
  | start f =>
    obtain ⟨hstopped, -, -, -⟩ := exec_start_next h
    simp [hrun] at hstopped
  | t1dl =>
    obtain ⟨hstep, -, -⟩ := exec_t1dl_next h
    exact ⟨rfl, by simp [hstep]⟩
  | t3wr =>
    obtain ⟨hstep, -, -, -⟩ := exec_t3wr_next h
    exact ⟨rfl, by simp [hstep]⟩
  | t4adv =>
    obtain ⟨hstep, -, -⟩ := exec_t4adv_next h
    exact ⟨rfl, by simp [hstep]⟩
  | reset => exact absurd rfl hreset

/-- Settles O41: a register that changed is in the column of a step that writes it, and the writers that complete while
the engine runs are `T1DL`, `T3WR` and `T4ADV`. -/
theorem only_the_handler_writes_while_running : Obligations.Only_the_handler_writes_while_running := by
  intro i s t h hrun hreset hchanged
  refine writer_in_handler_of_running h hrun hreset (hchanged.imp ?_ (Or.imp ?_ ?_))
  · exact fun hidx => mem_writes_of_get_ne h (get_idx_inj.not.2 hidx)
  · exact fun hdeadline => mem_writes_of_get_ne h (get_deadline_inj.not.2 hdeadline)
  · exact fun hcmpreg => mem_writes_of_get_ne h (get_cmpreg_inj.not.2 hcmpreg)

end Sys2Proof.Machine

/-! PROOFS. The encoding statements: the decoder and the encoder (R71 to R75), the host's turn that issues a command
word (R70, R74), and the schedule of R79 that waits for each tick. -/

namespace Sys2Proof

/-! ### The opcode map (R71 to R75) -/

/-- The five op values of R73 and the three reserved ones of R74. -/
theorem op_cases (op : BitVec 3) :
    op = 0 ∨ op = 1 ∨ op = 2 ∨ op = 3 ∨ op = 4 ∨ op = 5 ∨ op = 6 ∨ op = 7 := by
  revert op
  decide

/-- The argument stands below the op field: it is added to it (R71, R75). -/
theorem cmdWord_eq_add (op : BitVec 3) (arg : Word) : cmdWord op arg = cmdWord op 0 + arg.setWidth 35 := by
  apply BitVec.eq_of_toNat_eq
  have hop := op.isLt
  have harg := arg.isLt
  have hzero : (0 : Word).toNat = 0 := rfl
  rw [BitVec.toNat_add, BitVec.toNat_setWidth, cmdWord_toNat, cmdWord_toNat, hzero]
  omega

theorem cmdWord_inj {op op' : BitVec 3} {arg arg' : Word} :
    cmdWord op arg = cmdWord op' arg' ↔ op = op' ∧ arg = arg' := by
  refine ⟨fun h => ⟨?_, ?_⟩, fun ⟨hop, harg⟩ => by rw [hop, harg]⟩
  · simpa using congrArg opField h
  · simpa using congrArg argField h

theorem cmdWord_zero_eq_iff {op : BitVec 3} {arg : Word} : cmdWord op 0#32 = cmdWord op arg ↔ arg = 0#32 := by
  rw [cmdWord_inj, and_iff_right rfl, eq_comm]

/-- The mask of R73 keeps the op field and clears the argument. -/
theorem cmdWord_and_mask (op : BitVec 3) (arg : Word) : cmdWord op arg &&& 0x700000000#35 = cmdWord op 0 := by
  have hmask : 0x700000000#35 = 7#3 ++ 0#32 := rfl
  have hop : op &&& 7#3 = op := BitVec.and_allOnes
  rw [cmdWord, hmask, BitVec.and_append, hop, BitVec.and_zero]
  rfl

/-- A word matches a row of R73 exactly when its op field is that row's. -/
theorem and_mask_eq_iff (w : CmdWord) (op : BitVec 3) :
    w &&& 0x700000000#35 = cmdWord op 0 ↔ opField w = op := by
  conv_lhs => rw [← cmdWord_fields w, cmdWord_and_mask, cmdWord_inj, and_iff_left rfl]

/-- Every command has an encoding (R75). -/
theorem exists_encode {i : Instr} (h : i.wellFormed = true) : ∃ w, encode i = some w := by
  cases i with
  | nop | csetup | start f | stop | setf f => exact ⟨_, rfl⟩
  | tenter | t1dl | t2clr | t3wr | t4adv | clk | reset => cases h

/-- Decoding what a step is encoded as gives the step back (R75). -/
theorem decode_of_encode {i : Instr} {w : CmdWord} (h : encode i = some w) : decode w = some i := by
  cases i with
  | nop | csetup | start f | stop | setf f =>
    cases h
    exact decode_cmdWord _ _
  | tenter | t1dl | t2clr | t3wr | t4adv | clk | reset => cases h

/-- Decoding is total (R75). -/
theorem commandOf_cases (op : BitVec 3) (arg : Word) :
    commandOf op arg = none ∨ commandOf op arg = some .nop ∨ commandOf op arg = some .csetup ∨
      commandOf op arg = some (.start arg) ∨ commandOf op arg = some .stop ∨
      commandOf op arg = some (.setf arg) := by
  unfold commandOf
  split <;> simp

/-- What a word decodes to, by its op field (R73, R74). -/
theorem decode_iff_opField (w : CmdWord) :
    (decode w = some .nop ↔ opField w = 0) ∧
    (decode w = some .csetup ↔ opField w = 1) ∧
    (decode w = some (.start (argField w)) ↔ opField w = 2) ∧
    (decode w = some .stop ↔ opField w = 3) ∧
    (decode w = some (.setf (argField w)) ↔ opField w = 4) ∧
    (decode w = none ↔ opField w = 5 ∨ opField w = 6 ∨ opField w = 7) := by
  unfold decode
  obtain h | h | h | h | h | h | h | h := op_cases (opField w) <;> simp [h, commandOf]

/-- A word with a reserved op is no command (R74). -/
theorem decode_of_reserved {w : CmdWord} (h : 5 ≤ (opField w).toNat) : decode w = none := by
  unfold decode commandOf
  split <;> [omega; omega; omega; omega; omega; rfl]

/-- Encoding a command gives back the word it was decoded from, unless the command ignores the argument (format C0) and
the argument is not zero (R72, R75). -/
theorem encode_eq_cmdWord_iff {op : BitVec 3} {arg : Word} {i : Instr} (h : commandOf op arg = some i) :
    encode i = some (cmdWord op arg) ↔ i = .start arg ∨ i = .setf arg ∨ arg = 0 := by
  obtain rfl | rfl | rfl | rfl | rfl | rfl | rfl | rfl := op_cases op <;> cases h
  · simp [encode, cmdWord_zero_eq_iff]
  · simp [encode, cmdWord_zero_eq_iff]
  · simp [encode]
  · simp [encode, cmdWord_zero_eq_iff]
  · simp [encode]

/-- Settles O2: the five encodings put together field by field, and the decoder by the op field. -/
theorem decode_of_encode_is_the_command : Obligations.Decode_of_encode_is_the_command := by
  refine ⟨fun i hi => ?_, rfl, rfl, rfl, fun f => ?_, fun f => ?_, fun w => commandOf_cases _ _⟩
  · obtain ⟨w, hw⟩ := exists_encode hi
    exact ⟨w, hw, decode_of_encode hw⟩
  · exact congrArg some (cmdWord_eq_add 2 f)
  · exact congrArg some (cmdWord_eq_add 4 f)

/-- Settles O3: matching under the mask compares the op field, and the decoder goes by the op field. -/
theorem decode_by_match_and_mask : Obligations.Decode_by_match_and_mask := by
  intro w
  have byOp := decode_iff_opField w
  simp only [← and_mask_eq_iff] at byOp
  exact byOp

/-- Settles O4: by format, with the word written as its two fields. -/
theorem encode_of_decode_is_the_word : Obligations.Encode_of_decode_is_the_word := by
  intro w i h
  have hiff := encode_eq_cmdWord_iff h
  rw [cmdWord_fields] at hiff
  exact hiff

/-- Settles O1, evaluated. -/
theorem command_words_decode : Obligations.Command_words_decode := by
  unfold Obligations.Command_words_decode
  decide

end Sys2Proof

namespace Sys2Proof.Machine

/-! ### The host's turn (R70, R74) -/

theorem presented_of_commands {s : State} {w : CmdWord} {ws : List CmdWord} (h : s.commands = w :: ws) :
    presented s = some w := by
  simp only [presented, h]

theorem releasePort_of_commands {s : State} {w : CmdWord} {ws : List CmdWord} (h : s.commands = w :: ws) :
    releasePort s = { s with commands := ws } := by
  simp only [releasePort, h]

theorem issue_of_decode {s : State} {w : CmdWord} {i : Instr} (h : decode w = some i) :
    issue w s = .run i (releasePort s) := by
  simp only [issue, h]

theorem issue_of_illegal {s : State} {w : CmdWord} (h : decode w = none) : issue w s = .illegal w := by
  simp only [issue, h]

/-- Where the host's turn comes next and the port accepts a word, the turn issues the presented one (R70). -/
theorem step_issues {s : State} {rest : List Agent} {w : CmdWord} {ws : List CmdWord} (hg : GoodCfg s.cfg)
    (hready : s.hstep = 0) (hs : s.schedule = .host :: rest) (hc : s.commands = w :: ws) :
    step s = runTurn (issue w { s with schedule := rest }) := by
  have hturn : hostTurn { s with schedule := rest } = issue w { s with schedule := rest } :=
    hostTurn_ready hready (presented_of_commands hc)
  rw [step_of_schedule hg hs, agentTurn, hturn]

/-- Settles O46: the presented word is issued, and issuing runs what it decodes to. -/
theorem step_runs_the_decoded_command : Obligations.Step_runs_the_decoded_command := by
  intro s rest w ws i hg hready hs hc hd
  rw [step_issues hg hready hs hc, issue_of_decode hd]
  exact congrArg (exec i) (releasePort_of_commands hc)

/-- Settles O47: the presented word is issued, and a reserved op spells no command. -/
theorem step_refuses_a_reserved_word : Obligations.Step_refuses_a_reserved_word := by
  intro s rest w ws hg hready hs hc hop
  rw [step_issues hg hready hs hc, issue_of_illegal (decode_of_reserved hop)]
  rfl

/-- Settles O48: with `cmd_ready = 0` the host's turn is idle, and the words of the host are untouched. -/
theorem step_holds_a_command_in_handler_context : Obligations.Step_holds_a_command_in_handler_context := by
  intro s rest hg hbusy hs
  have hturn : hostTurn { s with schedule := rest } = .idle { s with schedule := rest } := hostTurn_held hbusy
  constructor
  · rw [step_of_schedule hg hs, agentTurn, hturn]
    rfl
  · rfl

/-- A table word that decodes is a command word of the port. -/
theorem tableWord_of_decode {nbits n : Nat} {i : Instr} (h : decodeTableWord nbits n = some i) :
    ∃ w, tableWord nbits n = some w ∧ decode w = some i := by
  unfold decodeTableWord at h
  split at h
  · exact ⟨_, ‹_›, h⟩
  · cases h

theorem withFetchWord_of_tableWord {s : State} {nbits n : Nat} {w : CmdWord} (h : tableWord nbits n = some w) :
    s.withFetchWord nbits n = placeCommand w s := by
  simp only [State.withFetchWord, placeTableWord, h]

/-- Settles O52: the placed word stands on the accepting port with the host's turn next, so O46 applies. -/
theorem placed_word_runs_next : Obligations.Placed_word_runs_next := by
  intro s nbits n i hg h
  obtain ⟨w, hw, hd⟩ := tableWord_of_decode h
  rw [withFetchWord_of_tableWord hw]
  exact step_runs_the_decoded_command (placeCommand w s) s.schedule w s.commands i hg rfl rfl rfl hd

/-! ### Steps that are not enabled (R70, R76) -/

theorem exec_of_disabled {i : Instr} {s : State} (h : enabled i s = false) : exec i s = .refused (.notEnabled i) := by
  cases i with
  | clk | reset => cases h
  | nop | csetup | start f | stop | setf f | tenter | t1dl | t2clr | t3wr | t4adv => exact whenEnabled_of_disabled h _

theorem whenEnabled_refused_of_enabled {i : Instr} {s : State} {k : Result} {r : Refusal} (he : enabled i s = true)
    (h : whenEnabled i s k = .refused r) : k = .refused r :=
  (whenEnabled_of_enabled he k).symm.trans h

/-- The effect of an enabled step never ends in `notEnabled`. -/
theorem exec_ne_notEnabled_of_enabled {i j : Instr} {s : State} (he : enabled i s = true) :
    exec i s ≠ .refused (.notEnabled j) := by
  intro h
  cases i with
  | clk | reset => cases h
  | nop | stop | tenter | t2clr => cases whenEnabled_refused_of_enabled he h
  | csetup | t3wr | t4adv =>
    have hk := whenEnabled_refused_of_enabled he h
    split at hk <;> cases hk
  | start f =>
    have hk := whenEnabled_refused_of_enabled he h
    split at hk
    · cases hk
    · split at hk
      · cases hk
      · obtain ⟨p, hp⟩ := withLegalFrequency_refused hk
        cases hp
  | setf f | t1dl =>
    obtain ⟨p, hp⟩ := withLegalFrequency_refused (whenEnabled_refused_of_enabled he h)
    cases hp

theorem runTurn_ne_notEnabled (s : State) (j : Instr) : runTurn (nextTurn s) ≠ .refused (.notEnabled j) := by
  have hturn := nextTurn_cases s
  cases hn : nextTurn s with
  | run i u =>
    rw [hn] at hturn
    obtain ⟨-, he⟩ := hturn
    exact exec_ne_notEnabled_of_enabled he
  | idle u => nofun
  | illegal w => nofun

/-- Settles O53: a turn runs enabled steps only, and the effect of an enabled step has other refusals. -/
theorem disabled_steps_are_refused_by_exec_only : Obligations.Disabled_steps_are_refused_by_exec_only := by
  refine ⟨fun i s => ⟨exec_of_disabled, fun h => ?_⟩, fun i j s h => ?_, fun j s h => ?_⟩
  · exact Bool.eq_false_iff.2 fun he => exec_ne_notEnabled_of_enabled he h
  · obtain hr | hr | hr := exec_refused_cases h <;> cases hr
    rfl
  · unfold step withGoodCfg at h
    split at h
    · cases h
    · exact runTurn_ne_notEnabled s j h

/-! ### `UNTIL_PEND` (R79, R102) -/

/-- A deadline equal to the count is a match in both modes (R102). -/
theorem deadlineMatch_self (m : MatchMode) (d : Word) : deadlineMatch m d d = true := by
  cases m <;> simp [deadlineMatch]

theorem edgesToDeadline_bounds (s : State) : 1 ≤ edgesToDeadline s ∧ edgesToDeadline s ≤ 2 ^ 32 := by
  unfold edgesToDeadline
  split
  · omega
  · bv_omega

/-- The count runs into the deadline (R101). -/
theorem cnt_add_edgesToDeadline (s : State) : s.cnt + BitVec.ofNat 32 (edgesToDeadline s) = s.deadline := by
  unfold edgesToDeadline
  split
  · bv_omega
  · bv_omega

/-- One period of the counter passes the deadline, and the flag stays up from there (R29, R102). -/
theorem afterClks_period_pend (s : State) : (afterClks (2 ^ 32) s).pend = true := by
  obtain ⟨hone, hle⟩ := edgesToDeadline_bounds s
  refine (afterClks_pend _ s).2 (.inr ⟨edgesToDeadline s, hone, hle, ?_⟩)
  rw [cnt_add_edgesToDeadline]
  exact deadlineMatch_self _ _

theorem clkUntilPend_of_pend {n : Nat} {s : State} (h : s.pend = true) : clkUntilPend n s = .ok s := by
  cases n <;> exact if_pos h

theorem clkUntilPend_succ {n : Nat} {s : State} (h : s.pend ≠ true) :
    clkUntilPend (n + 1) s = clkUntilPend n (carrierEdge (tickTimerEdge s)) :=
  if_neg h

/-- Where `n` edges raise the flag, `CLK` while `PEND = 0` ends within `n` edges. -/
theorem clkUntilPend_ends {n : Nat} {s : State} (h : (afterClks n s).pend = true) :
    ∃ m ≤ n, clkUntilPend n s = .ok (afterClks m s) ∧ (afterClks m s).pend = true := by
  induction n generalizing s with
  | zero => exact ⟨0, le_rfl, clkUntilPend_of_pend h, h⟩
  | succ n ih =>
    by_cases hp : s.pend = true
    · exact ⟨0, Nat.zero_le _, clkUntilPend_of_pend hp, hp⟩
    · obtain ⟨m, hm, hrun, hpend⟩ := ih h
      exact ⟨m + 1, Nat.succ_le_succ hm, (clkUntilPend_succ hp).trans hrun, hpend⟩

theorem untilPend_ends (s : State) :
    ∃ n ≤ 2 ^ 32, untilPend s = .ok (afterClks n s) ∧ (afterClks n s).pend = true :=
  clkUntilPend_ends (afterClks_period_pend s)

/-- Settles O55: within one period of the counter there is a match. -/
theorem until_pend_always_ends : Obligations.Until_pend_always_ends := by
  intro s
  obtain ⟨n, hn, hrun, hpend⟩ := untilPend_ends s
  exact ⟨n, hn, afterClks n s, hrun, runInstrs_clks n, hpend⟩

/-! ### `RUNTICKS` (R79, R95 to R97) -/

section
variable {s : State}

theorem exec_tenter_requested (hrun : s.run = true) (hpend : s.pend = true) (hstep : s.hstep = 0) :
    exec .tenter s = .next (enterHandler s) :=
  whenEnabled_of_enabled (by simp [enabled, tickIrq, hrun, hpend, hstep]) _

theorem exec_t1dl_legal (hstep : s.hstep = 1) (hf : s.cfg.legalFrequency s.outf) :
    exec .t1dl s = .next (setHstep 2 { s with
      deadline := s.deadline + BitVec.ofNat 32 (s.cfg.clockFrequency / s.outf.toNat / 100) }) :=
  (whenEnabled_of_enabled (by simp [enabled, hstep]) _).trans (withLegalFrequency_of_legal _ hf)

theorem exec_t2clr_ready (hstep : s.hstep = 2) : exec .t2clr s = .next (setHstep 3 (clearPend s)) :=
  whenEnabled_of_enabled (by simp [enabled, hstep]) _

theorem exec_t3wr_sample {v : Sample} (hstep : s.hstep = 3) (hv : s.cfg.sample s.idx.toNat = some v) :
    exec .t3wr s = .next (setHstep 4 { s with cmpreg := v }) := by
  have hen : enabled .t3wr s = true := by simp [enabled, hstep]
  simp only [exec, execT3wr, whenEnabled_of_enabled hen, hv]

theorem exec_t4adv_legal (hstep : s.hstep = 4) (hidx : s.idx.toNat < 100) :
    exec .t4adv s = .next (returnFromHandler { s with idx := nextIndex s.idx }) :=
  (whenEnabled_of_enabled (by simp [enabled, hstep]) _).trans (if_neg (by omega))

theorem tickSteps_eq : tickSteps = [.tenter, .t1dl, .t2clr, .t3wr, .t4adv] := rfl

/-- The five micro-steps of a requested tick with no step between them (R95). -/
theorem tickSteps_next (hrun : s.run = true) (hpend : s.pend = true) (hstep : s.hstep = 0)
    (hf : s.cfg.legalFrequency s.outf) (hidx : s.idx.toNat < 100) :
    runInstrs tickSteps s = .next { s with
      idx := nextIndex s.idx
      deadline := s.deadline + BitVec.ofNat 32 (s.cfg.clockFrequency / s.outf.toNat / 100)
      pend := false
      hstep := 0
      cmpreg := s.cfg.table[s.idx.toNat] } := by
  rw [tickSteps_eq]
  refine runInstrs_cons_next.2 ⟨_, exec_tenter_requested hrun hpend hstep, ?_⟩
  refine runInstrs_cons_next.2 ⟨_, exec_t1dl_legal rfl hf, ?_⟩
  refine runInstrs_cons_next.2 ⟨_, exec_t2clr_ready rfl, ?_⟩
  refine runInstrs_cons_next.2 ⟨_, exec_t3wr_sample rfl (sample_of_lt hidx), ?_⟩
  refine runInstrs_cons_next.2 ⟨_, exec_t4adv_legal rfl hidx, ?_⟩
  simp only [runInstrs_nil, returnFromHandler, setHstep, clearPend, enterHandler]

end

theorem runInstrs_keeps_inv {is : List Instr} {s t : State} (hs : Inv s) (h : runInstrs is s = .next t) : Inv t := by
  induction is generalizing s with
  | nil => cases h; exact hs
  | cons i is ih =>
    obtain ⟨u, hu, h⟩ := runInstrs_cons_next.1 h
    exact ih (exec_keeps_inv hs hu) h

/-- The state in which `RUNTICKS` can go on: Running, in thread context, with the invariants. -/
structure RunningInThread (s : State) : Prop where
  inv : Inv s
  run : s.run = true
  thread : s.hstep = 0

/-- One round of `RUNTICKS`: the wait for the flag, then the tick, which advances the index and the deadline by one
(R94, R91). -/
theorem runTicks_succ {s : State} (hs : RunningInThread s) (k : Nat) :
    ∃ u, runTicks (k + 1) s = runTicks k u ∧ RunningInThread u ∧ u.cfg = s.cfg ∧ u.outf = s.outf ∧
      u.idx.toNat = (s.idx.toNat + 1) % 100 ∧
      u.deadline = s.deadline + BitVec.ofNat 32 (s.cfg.clockFrequency / s.outf.toNat / 100) := by
  obtain ⟨n, -, hwait, hpend⟩ := untilPend_ends s
  have hidx : s.idx.toNat < 100 := Nat.lt_succ_of_le hs.inv.idxRange
  have htick := tickSteps_next (s := afterClks n s) (by simpa using hs.run) hpend (by simpa using hs.thread)
    (by simpa using hs.inv.outfLegal) (by simpa using hidx)
  have hinv := runInstrs_keeps_inv (runInstrs_keeps_inv hs.inv (runInstrs_clks n)) htick
  refine ⟨_, ?_, ⟨hinv, by simpa using hs.run, rfl⟩, by simp, by simp, ?_, by simp⟩
  · simp only [runTicks, hwait, scriptSteps, htick]
  · simpa using nextIndex_toNat hidx

/-- Settles O26, by induction on the number of ticks. -/
theorem no_overrun_schedule_runs_every_tick : Obligations.No_overrun_schedule_runs_every_tick := by
  intro k s hinv hrun hthread
  have hs : RunningInThread s := ⟨hinv, hrun, hthread⟩
  clear hinv hrun hthread
  induction k generalizing s with
  | zero =>
    have hidx := hs.inv.idxRange
    exact ⟨s, rfl, hs.inv, hs.run, hs.thread, rfl, by omega, by simp⟩
  | succ k ih =>
    obtain ⟨u, hround, hu, hcfg, houtf, hidx, hdeadline⟩ := runTicks_succ hs k
    obtain ⟨t, ht, hinv, hrun, hthread, htoutf, htidx, htdeadline⟩ := ih u hu
    refine ⟨t, hround.trans ht, hinv, hrun, hthread, htoutf.trans houtf, by omega, ?_⟩
    rw [htdeadline, hdeadline, hcfg, houtf, BitVec.add_assoc, ← BitVec.ofNat_add, Nat.succ_mul, Nat.add_comm]

end Sys2Proof.Machine

/-! PROOFS. The command statements: `NOP`, `CSETUP`, `START`, `STOP` and `SETF` (R80 to R85), and the stopped engine
(R152). -/

namespace Sys2Proof.Machine

/-! ### The op field of a command word (R73) -/

/-- The decoder answers by the op field, whatever the argument is. -/
theorem decode_of_opField {w : CmdWord} {op : BitVec 3} (h : w.extractLsb' 32 3 = op) :
    decode w = commandOf op (argField w) :=
  congrArg (commandOf · (argField w)) h

/-! ### The first tick after `START` (R82, R102) -/

/-- On the way to a deadline at most half the counter's range ahead, the comparator is true at the deadline only, in
either match mode. -/
theorem deadlineMatch_on_the_way (m : MatchMode) (c : Word) {j k : Nat} (hjk : j ≤ k) (hj : 1 ≤ j)
    (hk : k ≤ 2 ^ 31) :
    deadlineMatch m (c + BitVec.ofNat 32 j) (c + BitVec.ofNat 32 k) = true ↔ j = k := by
  refine ⟨fun h => ?_, ?_⟩
  · cases m with
    | reached =>
      simp only [deadlineMatch, decide_eq_true_eq] at h
      bv_omega
    | equal =>
      simp only [deadlineMatch, beq_iff_eq] at h
      bv_omega
  · rintro rfl
    exact deadlineMatch_self _ _

/-- With the flag clear and the deadline `k` edges ahead, exactly the `k`-th edge raises the flag. -/
theorem afterClks_pend_at_deadline {s : State} {k n : Nat} (hpend : s.pend = false) (h1 : 1 ≤ k) (hk : k ≤ 2 ^ 31)
    (hdeadline : s.deadline = s.cnt + BitVec.ofNat 32 k) (hn : n ≤ k) :
    (afterClks n s).pend = true ↔ n = k := by
  rw [afterClks_pend, hpend, hdeadline]
  constructor
  · rintro (h | ⟨j, hj, hjn, hmatch⟩)
    · cases h
    · have hjk := (deadlineMatch_on_the_way _ _ (hjn.trans hn) hj hk).1 hmatch
      omega
  · rintro rfl
    exact .inr ⟨n, h1, le_rfl, deadlineMatch_self _ _⟩

/-- With the sequence check passed, what is left of `START f` is the frequency check and the effect (R82). -/
theorem exec_start_stopped {s : State} {f : Word} (hready : s.hstep = 0) (hrun : s.run = false) (hcen : s.cen = true) :
    exec (.start f) s = withLegalFrequency (.start f) f s fun period =>
      .next { s with outf := f, idx := 0, deadline := s.cnt + period, pend := false, run := true } :=
  (exec_start_ready hready).trans ((if_neg (by simp [hrun])).trans (if_neg (by simp [hcen])))

/-- Settles O13: the checks one after the other; a started engine has the flag clear and the deadline one period ahead,
which is less than half the counter's range. -/
theorem start_arms_the_tick : Obligations.Start_arms_the_tick := by
  refine ⟨fun w h => decode_of_opField h, fun s f => cmdReady_iff s, fun s f hready => ?_⟩
  have hexec := exec_start_ready (f := f) hready
  refine ⟨fun hrun => ?_, fun hrun hcen => ?_, fun hrun hcen hf => ?_, fun hrun hcen _ hf => ?_,
    fun hrun hcen h1 hle => ?_, fun t hgood ht n hn => ?_⟩
  · exact hexec.trans (if_pos hrun)
  · simpa [hrun, hcen] using hexec
  · subst hf
    exact (exec_start_stopped hready hrun hcen).trans (withLegalFrequency_zero _)
  · exact (exec_start_stopped hready hrun hcen).trans (withLegalFrequency_high _ hf)
  · exact (exec_start_stopped hready hrun hcen).trans (withLegalFrequency_of_legal _ ⟨h1, hle⟩)
  · obtain ⟨-, -, ⟨h1, hle⟩, rfl⟩ := exec_start_next ht
    have hmax := period_le s.cfg.clockFrequency f.toNat
    have hclock := hgood.clockHigh
    exact ⟨_, runInstrs_clks n, afterClks_pend_at_deadline rfl (one_le_period h1 hle) (by omega) rfl hn⟩

/-! ### The stopped engine (R83, R152) -/

section
variable {i : Instr} {s t : State}

/-- The steps that are neither of the handler nor `START` nor `RESET` write no `IDX` and no `DEADLINE`, and of them only
`CSETUP` writes `CMPREG` (R38). -/
theorem not_mem_writes_outside_handler (hi : i.inHandler = false) (hstart : ∀ f, i ≠ .start f) (hreset : i ≠ .reset) :
    Reg.idx ∉ writes i ∧ Reg.deadline ∉ writes i ∧ (i ≠ .csetup → Reg.cmpreg ∉ writes i) := by
  cases i with
  | nop | csetup | stop | setf f | clk => simp [writes]
  | start f => exact absurd rfl (hstart f)
  | reset => exact absurd rfl hreset
  | tenter | t1dl | t2clr | t3wr | t4adv => cases hi

/-- With `RUN = 0` in thread context no micro-step of the handler is enabled (R76, R114). -/
theorem not_inHandler_of_stopped (h : exec i s = .next t) (hrun : s.run = false) (hthread : s.hstep = 0) :
    i.inHandler = false := by
  have he := exec_next_enabled h
  cases i with
  | nop | csetup | start f | stop | setf f | clk | reset => rfl
  | tenter => simp [enabled, tickIrq, hrun] at he
  | t1dl | t2clr | t3wr | t4adv => simp [enabled, hthread] at he

/-- Only `START` sets `RUN` (R24). -/
theorem exec_keeps_stopped (h : exec i s = .next t) (hrun : s.run = false) (hstart : ∀ f, i ≠ .start f) :
    t.run = false := by
  cases i with
  | start f => exact absurd rfl (hstart f)
  | stop => rw [exec_stop_next h]
  | reset => rw [exec_reset_next h]; rfl
  | nop | csetup | setf f | tenter | t1dl | t2clr | t3wr | t4adv | clk =>
    exact (get_run_inj.1 (exec_keeps_get h (by simp [writes]))).trans hrun

/-- A step of a stopped engine in thread context, other than `START` and `RESET`, is outside the handler and leaves the
engine so, with `IDX`, `DEADLINE` and, but for `CSETUP`, `CMPREG` as they were. -/
theorem exec_of_stopped (h : exec i s = .next t) (hrun : s.run = false) (hthread : s.hstep = 0)
    (hstart : ∀ f, i ≠ .start f) (hreset : i ≠ .reset) :
    i.inHandler = false ∧ t.run = false ∧ t.hstep = 0 ∧ t.idx = s.idx ∧ t.deadline = s.deadline ∧
      (i ≠ .csetup → t.cmpreg = s.cmpreg) := by
  have hi := not_inHandler_of_stopped h hrun hthread
  obtain ⟨hidx, hdeadline, hcmpreg⟩ := not_mem_writes_outside_handler hi hstart hreset
  exact ⟨hi, exec_keeps_stopped h hrun hstart, (exec_keeps_hstep h hi hreset).trans hthread,
    get_idx_inj.1 (exec_keeps_get h hidx), get_deadline_inj.1 (exec_keeps_get h hdeadline),
    fun hcsetup => get_cmpreg_inj.1 (exec_keeps_get h (hcmpreg hcsetup))⟩

end

/-- Settles O42, by induction on the execution: every step finds the engine stopped in thread context and leaves it
so. -/
theorem stopped_engine_stays_frozen : Obligations.Stopped_engine_stays_frozen := by
  intro is s t hrun hthread hreset hstart h
  induction is generalizing s with
  | nil =>
    cases h
    exact ⟨nofun, hrun, hthread, rfl, rfl, fun _ => rfl⟩
  | cons i is ih =>
    simp only [List.mem_cons, not_or, forall_and] at hreset hstart
    obtain ⟨hireset, hreset⟩ := hreset
    obtain ⟨histart, hstart⟩ := hstart
    obtain ⟨u, hu, h⟩ := runInstrs_cons_next.1 h
    obtain ⟨hi, hurun, huthread, huidx, hudeadline, hucmpreg⟩ :=
      exec_of_stopped hu hrun hthread (fun f => Ne.symm (histart f)) (Ne.symm hireset)
    obtain ⟨his, htrun, htthread, htidx, htdeadline, htcmpreg⟩ := ih u hurun huthread hreset hstart h
    refine ⟨List.forall_mem_cons.2 ⟨hi, his⟩, htrun, htthread, htidx.trans huidx, htdeadline.trans hudeadline,
      fun hcsetup => ?_⟩
    obtain ⟨hicsetup, hcsetup⟩ := List.ne_and_not_mem_of_not_mem_cons hcsetup
    exact (htcmpreg hcsetup).trans (hucmpreg hicsetup.symm)

/-! ### The zero duty after `CSETUP` (R81) -/

/-- The output is enabled with the polarity of the configuration `c`, and the duty is zero, now and at the next load of
`CMPACT`. -/
structure ZeroDuty (c : Cfg) (s : State) : Prop where
  cfg : s.cfg = c
  oen : s.oen = true
  pol : s.pol = decide (c.polarity = .activeLow)
  cmpreg : s.cmpreg = 0
  cmpact : s.cmpact = 0

theorem zeroDuty_setupCarrier {c : Cfg} {s : State} (h : s.cfg = c) : ZeroDuty c (setupCarrier s) where
  cfg := h
  oen := rfl
  pol := by rw [setupCarrier_pol, h]
  cmpreg := rfl
  cmpact := rfl

/-- No count is below a compare value of 0, so the pin is at its inactive level (R37). -/
theorem ZeroDuty.pwmOut {c : Cfg} {s : State} (hs : ZeroDuty c s) :
    pwmOut s = .driven (decide (c.polarity = .activeLow)) := by
  have hinactive : carrierActive s = false := by simp [carrierActive, hs.cmpact]
  simp [Machine.pwmOut, hs.oen, hs.pol, hinactive]

section
variable {c : Cfg} {i : Instr} {is : List Instr} {s t u : State}

/-- A step that writes none of the four registers keeps the zero duty (R38). -/
theorem ZeroDuty.of_frame (hs : ZeroDuty c s) (h : exec i s = .next t)
    (hw : ∀ r ∈ [Reg.oen, .pol, .cmpreg, .cmpact], r ∉ writes i) : ZeroDuty c t where
  cfg := (exec_keeps_cfg h).trans hs.cfg
  oen := (get_oen_inj.1 (exec_keeps_get h (hw _ (by decide)))).trans hs.oen
  pol := (get_pol_inj.1 (exec_keeps_get h (hw _ (by decide)))).trans hs.pol
  cmpreg := (get_cmpreg_inj.1 (exec_keeps_get h (hw _ (by decide)))).trans hs.cmpreg
  cmpact := (get_cmpact_inj.1 (exec_keeps_get h (hw _ (by decide)))).trans hs.cmpact

/-- Every step but `RESET` and a `T3WR` of a non-zero sample keeps the zero duty. -/
theorem exec_keeps_zeroDuty (hs : ZeroDuty c s) (h : exec i s = .next t) (hreset : i ≠ .reset)
    (hwrite : i = .t3wr → t.cmpreg = 0) : ZeroDuty c t := by
  cases i with
  | nop | start f | stop | setf f | tenter | t1dl | t2clr | t4adv => exact hs.of_frame h (by simp [writes])
  | csetup =>
    obtain ⟨-, rfl⟩ := exec_csetup_next h
    exact zeroDuty_setupCarrier hs.cfg
  | t3wr =>
    have hzero := hwrite rfl
    obtain ⟨-, v, -, rfl⟩ := exec_t3wr_next h
    exact { hs with cmpreg := hzero }
  | clk =>
    obtain rfl := exec_clk_next h
    exact {
      cfg := by simpa using hs.cfg
      oen := by simpa using hs.oen
      pol := by simpa using hs.pol
      cmpreg := by simpa using hs.cmpreg
      cmpact := by rw [clockEdge_cmpact, hs.cmpreg, hs.cmpact, ite_self] }
  | reset => exact absurd rfl hreset

/-- The write trace, one completed step at a time (R14). -/
theorem writeTrace_cons_of_next (h : exec i s = .next u) :
    writeTrace (i :: is) s = if i = .t3wr then u.cmpreg :: writeTrace is u else writeTrace is u := by
  unfold writeTrace
  rw [completed_cons_of_next h, List.filterMap_cons]
  split_ifs <;> rfl

/-- The zero duty lasts through every execution without `RESET` that writes zero samples only. -/
theorem runInstrs_keeps_zeroDuty (hs : ZeroDuty c s) (hreset : Instr.reset ∉ is)
    (hwrites : ∀ v ∈ writeTrace is s, v = 0) (h : runInstrs is s = .next t) : ZeroDuty c t := by
  induction is generalizing s with
  | nil => cases h; exact hs
  | cons i is ih =>
    obtain ⟨hireset, hreset⟩ := List.ne_and_not_mem_of_not_mem_cons hreset
    obtain ⟨u, hu, h⟩ := runInstrs_cons_next.1 h
    rw [writeTrace_cons_of_next hu] at hwrites
    by_cases hi : i = .t3wr
    · rw [if_pos hi, List.forall_mem_cons] at hwrites
      obtain ⟨hfirst, hwrites⟩ := hwrites
      exact ih (exec_keeps_zeroDuty hs hu (Ne.symm hireset) fun _ => hfirst) hreset hwrites h
    · rw [if_neg hi] at hwrites
      exact ih (exec_keeps_zeroDuty hs hu (Ne.symm hireset) fun h => absurd h hi) hreset hwrites h

end

/-- Settles O12: the refusal or the setup, and the zero duty that the setup establishes and the later steps keep. -/
theorem csetup_sets_up_the_carrier : Obligations.Csetup_sets_up_the_carrier := by
  refine ⟨fun w h => decode_of_opField h, fun s => cmdReady_iff s, fun s hready => ?_⟩
  have hexec := exec_csetup_ready hready
  refine ⟨fun hrun => ?_, fun hrun => ?_, fun t is u ht hreset hwrites hu => ?_⟩
  · exact hexec.trans (if_pos hrun)
  · exact hexec.trans (if_neg (by simp [hrun]))
  · obtain ⟨-, rfl⟩ := exec_csetup_next ht
    exact (runInstrs_keeps_zeroDuty (zeroDuty_setupCarrier rfl) hreset hwrites hu).pwmOut

/-! ### `NOP`, `STOP` and `SETF` (R80, R83, R84) -/

/-- Settles O11: in thread context the step is its effect, which is none. -/
theorem nop_changes_nothing : Obligations.Nop_changes_nothing :=
  ⟨fun _ h => decode_of_opField h, fun s => cmdReady_iff s,
    fun s h => whenEnabled_of_enabled (i := .nop) ((cmdReady_iff s).2 h) _⟩

theorem exec_stop_ready {s : State} (h : s.hstep = 0) : exec .stop s = .next { s with run := false } :=
  whenEnabled_of_enabled (i := .stop) ((cmdReady_iff s).2 h) _

/-- The clock edge neither reads nor writes `RUN` (R100). -/
theorem clockEdge_withRun (b : Bool) (s : State) :
    carrierEdge (tickTimerEdge { s with run := b }) = { carrierEdge (tickTimerEdge s) with run := b } := by
  by_cases hcen : s.cen = true
  · by_cases hlast : s.ccnt.toNat + 1 = s.cfg.carrierPeriod
    · simp [carrierEdge, tickTimerEdge, comparedPend, hcen, hlast]
    · simp [carrierEdge, tickTimerEdge, comparedPend, hcen, hlast]
  · simp [carrierEdge, tickTimerEdge, comparedPend, hcen]

/-- Settles O14: the one write of `STOP` is to `RUN`, which the output and the clock edge do not read. -/
theorem stop_clears_run_only : Obligations.Stop_clears_run_only := by
  refine ⟨fun w h => decode_of_opField h, fun s => cmdReady_iff s, fun s hready => ?_⟩
  have hexec := exec_stop_ready hready
  refine ⟨hexec, fun hrun => ?_, fun t ht => ?_, fun t u v ht hu hv => ?_⟩
  · rw [hexec, ← hrun]
  · obtain rfl := exec_stop_next ht
    exact ⟨rfl, rfl⟩
  · obtain rfl := exec_stop_next ht
    obtain rfl := exec_clk_next hu
    obtain rfl := exec_clk_next hv
    exact clockEdge_withRun false s

/-- Settles O15: the answers of the frequency check; `RUN` and `DEADLINE` are neither read nor written. -/
theorem setf_writes_outf_only : Obligations.Setf_writes_outf_only := by
  refine ⟨fun w h => decode_of_opField h, fun s f => cmdReady_iff s, fun s f hready => ?_⟩
  have hexec := exec_setf_ready (f := f) hready
  refine ⟨fun hf => ?_, fun _ hf => ?_, fun h1 hle => ?_⟩
  · subst hf
    exact hexec.trans (withLegalFrequency_zero _)
  · exact hexec.trans (withLegalFrequency_high _ hf)
  · exact hexec.trans (withLegalFrequency_of_legal _ ⟨h1, hle⟩)

end Sys2Proof.Machine

/-! PROOFS. The tick handler statements: the five micro-steps (R90 to R94), one tick with clock edges in it (R95, R98),
and the write, index and deadline traces of any execution (R96, R97). -/

namespace Sys2Proof.Machine

/-! ### The micro-steps (R90 to R94) -/

section
variable {i : Instr} {is : List Instr} {s t : State}

theorem enabled_tenter_iff : enabled .tenter s = true ↔ s.run = true ∧ s.pend = true ∧ s.hstep = 0 := by
  simp [enabled, tickIrq, and_assoc]

theorem enabled_t1dl_iff : enabled .t1dl s = true ↔ s.hstep = 1 := beq_iff_eq
theorem enabled_t2clr_iff : enabled .t2clr s = true ↔ s.hstep = 2 := beq_iff_eq
theorem enabled_t3wr_iff : enabled .t3wr s = true ↔ s.hstep = 3 := beq_iff_eq
theorem enabled_t4adv_iff : enabled .t4adv s = true ↔ s.hstep = 4 := beq_iff_eq

/-- In handler context the commands and `TENTER` are held off, and the micro-step is the one `HSTEP` names (R70, R76,
R95). -/
theorem enabled_in_handler_cases (h : s.hstep ≠ 0) (he : enabled i s = true) :
    i = .clk ∨ i = .reset ∨ (i = .t1dl ∧ s.hstep = 1) ∨ (i = .t2clr ∧ s.hstep = 2) ∨
      (i = .t3wr ∧ s.hstep = 3) ∨ (i = .t4adv ∧ s.hstep = 4) := by
  cases i with
  | nop | csetup | start f | stop | setf f => exact absurd ((cmdReady_iff s).1 he) h
  | tenter => exact absurd (enabled_tenter_iff.1 he).2.2 h
  | t1dl => simp [enabled_t1dl_iff.1 he]
  | t2clr => simp [enabled_t2clr_iff.1 he]
  | t3wr => simp [enabled_t3wr_iff.1 he]
  | t4adv => simp [enabled_t4adv_iff.1 he]
  | clk => exact .inl rfl
  | reset => exact .inr (.inl rfl)

/-- Handler context is left by `T4ADV` and `RESET` only; no other step in it is a command or an entry (R90, R117). -/
theorem exec_keeps_in_handler (hs : s.hstep ≠ 0) (h : exec i s = .next t) (hadv : i ≠ .t4adv) (hreset : i ≠ .reset) :
    t.hstep ≠ 0 ∧ i.wellFormed = false ∧ i ≠ .tenter := by
  obtain rfl | rfl | ⟨rfl, -⟩ | ⟨rfl, -⟩ | ⟨rfl, -⟩ | ⟨rfl, -⟩ := enabled_in_handler_cases hs (exec_next_enabled h)
  · rw [exec_keeps_hstep h rfl hreset]
    exact ⟨hs, rfl, nofun⟩
  · exact absurd rfl hreset
  · obtain ⟨-, -, rfl⟩ := exec_t1dl_next h
    exact ⟨by simp, rfl, nofun⟩
  · obtain ⟨-, rfl⟩ := exec_t2clr_next h
    exact ⟨by simp, rfl, nofun⟩
  · obtain ⟨-, v, -, rfl⟩ := exec_t3wr_next h
    exact ⟨by simp, rfl, nofun⟩
  · exact absurd rfl hadv

theorem runInstrs_in_handler (hs : s.hstep ≠ 0) (hadv : Instr.t4adv ∉ is) (hreset : Instr.reset ∉ is)
    (h : runInstrs is s = .next t) : t.hstep ≠ 0 ∧ ∀ i ∈ is, i.wellFormed = false ∧ i ≠ .tenter := by
  induction is generalizing s with
  | nil => cases h; exact ⟨hs, nofun⟩
  | cons i is ih =>
    obtain ⟨hiadv, hadv⟩ := List.ne_and_not_mem_of_not_mem_cons hadv
    obtain ⟨hireset, hreset⟩ := List.ne_and_not_mem_of_not_mem_cons hreset
    obtain ⟨u, hu, h⟩ := runInstrs_cons_next.1 h
    obtain ⟨huhandler, hi⟩ := exec_keeps_in_handler hs hu hiadv.symm hireset.symm
    obtain ⟨hthandler, his⟩ := ih huhandler hadv hreset h
    exact ⟨hthandler, List.forall_mem_cons.2 ⟨hi, his⟩⟩

/-- The next edge after a clear sets the flag exactly if it matches (R92, R102). -/
theorem pend_of_t2clr_clk {u : State} (ht : exec .t2clr s = .next t) (hu : exec .clk t = .next u) :
    u.pend = deadlineMatch s.cfg.matchMode (s.cnt + 1) s.deadline := by
  obtain ⟨-, rfl⟩ := exec_t2clr_next ht
  obtain rfl := exec_clk_next hu
  simp [comparedPend]

theorem exec_t3wr_refused (hstep : s.hstep = 3) (hidx : 100 ≤ s.idx.toNat) :
    exec .t3wr s = .refused (.indexRange s.idx) := by
  simp only [exec, execT3wr, whenEnabled_of_enabled (enabled_t3wr_iff.2 hstep), sample_of_ge hidx]

theorem nextIndex_of_lt {j : Index} (h : j.toNat < 99) : nextIndex j = j + 1 := if_neg (by omega)
theorem nextIndex_of_last {j : Index} (h : j.toNat = 99) : nextIndex j = 0 := if_pos (by omega)

end

/-- Settles O17: the entry, and the induction that handler context lasts until `T4ADV`. -/
theorem tenter_enters_the_handler : Obligations.Tenter_enters_the_handler := by
  refine fun s => ⟨enabled_tenter_iff, fun hrun hpend hthread => ⟨exec_tenter_requested hrun hpend hthread, ?_, ?_, ?_⟩⟩
  · intro t is u ht hadv hreset hu
    obtain ⟨-, -, -, rfl⟩ := exec_tenter_next ht
    obtain ⟨huhandler, his⟩ := runInstrs_in_handler (by simp) hadv hreset hu
    exact ⟨by simpa [cmdReady] using huhandler, his⟩
  · intro t ht
    obtain rfl := exec_clk_next ht
    exact enabled_tenter_iff.2 (by simp [hrun, comparedPend, hpend, hthread])
  · intro t ht
    obtain rfl := exec_stop_next ht
    rfl

/-- Settles O18: the answers of the frequency check on `OUTF`. -/
theorem t1dl_moves_the_deadline : Obligations.T1dl_moves_the_deadline := by
  refine ⟨fun s => enabled_t1dl_iff, fun s hstep => ⟨fun h1 hle => exec_t1dl_legal hstep ⟨h1, hle⟩, fun hzero => ?_⟩⟩
  refine (whenEnabled_of_enabled (enabled_t1dl_iff.2 hstep) _).trans ?_
  rw [hzero, withLegalFrequency_zero]

/-- Settles O19: after the clear, the flag is the comparator's answer at the next edge. -/
theorem t2clr_clears_the_pending_flag : Obligations.T2clr_clears_the_pending_flag := by
  refine ⟨fun s => enabled_t2clr_iff, fun s hstep => ⟨exec_t2clr_ready hstep, ?_, ?_⟩⟩
  · intro t u ht hu hmode
    rw [pend_of_t2clr_clk ht hu, hmode]
    exact decide_eq_true_iff
  · intro t u ht hu hmode
    rw [pend_of_t2clr_clk ht hu, hmode]
    exact beq_iff_eq

/-- Settles O20: the table read has a value below 100 only, and the pin does not depend on `CMPREG`. -/
theorem t3wr_writes_the_sample : Obligations.T3wr_writes_the_sample := by
  refine ⟨fun s => enabled_t3wr_iff, fun s hstep => ⟨fun h => exec_t3wr_sample hstep (sample_of_lt h),
    exec_t3wr_refused hstep, fun t ht => ⟨?_, ?_⟩⟩⟩
  · obtain ⟨-, v, -, rfl⟩ := exec_t3wr_next ht
    rfl
  · rw [writeTrace_cons_of_next ht, if_pos rfl]
    rfl

/-- Settles O21: the two cases of the advance, and thread context after it. -/
theorem t4adv_advances_the_index : Obligations.T4adv_advances_the_index := by
  refine ⟨fun s => enabled_t4adv_iff, fun s hstep => ⟨fun hlt => ?_, fun hlast => ?_, fun hge => ?_, fun t ht => ?_⟩⟩
  · rw [exec_t4adv_legal hstep (by omega), nextIndex_of_lt hlt]
    rfl
  · rw [exec_t4adv_legal hstep (by omega), nextIndex_of_last hlast]
    rfl
  · exact (whenEnabled_of_enabled (enabled_t4adv_iff.2 hstep) _).trans (if_pos hge)
  · obtain ⟨-, -, rfl⟩ := exec_t4adv_next ht
    exact ⟨rfl, by simp [enabled, tickIrq]⟩

/-! ### One tick with clock edges in it (R95, R98) -/

/-- The five micro-steps of a tick, each on the state the edges before it leave. -/
theorem tickWithClks_next_iff {a b c d : Nat} {s t : State} :
    runInstrs (tickWithClks a b c d) s = .next t ↔
      ∃ s₁ s₂ s₃ s₄, exec .tenter s = .next s₁ ∧ exec .t1dl (afterClks a s₁) = .next s₂ ∧
        exec .t2clr (afterClks b s₂) = .next s₃ ∧ exec .t3wr (afterClks c s₃) = .next s₄ ∧
        exec .t4adv (afterClks d s₄) = .next t := by
  simp only [tickWithClks, runInstrs_append_next, runInstrs_cons_next, runInstrs_clks, runInstrs_nil,
    Host.Outcome.next.injEq, exists_eq_right]
  constructor
  · rintro ⟨_, ⟨s₄, ⟨_, ⟨s₃, ⟨_, ⟨s₂, ⟨_, ⟨s₁, h₁, rfl⟩, h₂⟩, rfl⟩, h₃⟩, rfl⟩, h₄⟩, rfl⟩, h₅⟩
    exact ⟨s₁, s₂, s₃, s₄, h₁, h₂, h₃, h₄, h₅⟩
  · rintro ⟨s₁, s₂, s₃, s₄, h₁, h₂, h₃, h₄, h₅⟩
    exact ⟨_, ⟨s₄, ⟨_, ⟨s₃, ⟨_, ⟨s₂, ⟨_, ⟨s₁, h₁, rfl⟩, h₂⟩, rfl⟩, h₃⟩, rfl⟩, h₄⟩, rfl⟩, h₅⟩

/-- The clock edges of two stretches in a row, counted through. -/
theorem exists_edge_add (P : Nat → Prop) (c d : Nat) :
    ((∃ k, 1 ≤ k ∧ k ≤ c ∧ P k) ∨ ∃ k, 1 ≤ k ∧ k ≤ d ∧ P (c + k)) ↔ ∃ k, 1 ≤ k ∧ k ≤ c + d ∧ P k := by
  constructor
  · rintro (⟨k, h1, hk, h⟩ | ⟨k, h1, hk, h⟩)
    · exact ⟨k, h1, by omega, h⟩
    · exact ⟨c + k, by omega, by omega, h⟩
  · rintro ⟨k, h1, hk, h⟩
    rcases Nat.lt_or_ge c k with hck | hck
    · exact .inr ⟨k - c, by omega, by omega, by rwa [Nat.add_sub_cancel' hck.le]⟩
    · exact .inl ⟨k, h1, hck, h⟩

/-- A requested tick completes whatever clock edges fall into it, with one effect on the engine registers (R95); the
flag is what the edges after `T2CLR` make of it. -/
theorem tickWithClks_completes {s : State} (a b c d : Nat) (hidx : s.idx.toNat < 100) (hrun : s.run = true)
    (hpend : s.pend = true) (hthread : s.hstep = 0) (hf : s.cfg.legalFrequency s.outf) :
    ∃ t, runInstrs (tickWithClks a b c d) s = .next t ∧
      t.deadline = s.deadline + BitVec.ofNat 32 (s.cfg.clockFrequency / s.outf.toNat / 100) ∧
      t.cmpreg = s.cfg.table[s.idx.toNat] ∧ t.idx.toNat = (s.idx.toNat + 1) % 100 ∧
      t.hstep = 0 ∧ t.run = true ∧ t.outf = s.outf ∧ t.cnt = s.cnt + BitVec.ofNat 32 (a + b + c + d) ∧
      (t.pend = true ↔ ∃ k, 1 ≤ k ∧ k ≤ c + d ∧
        deadlineMatch s.cfg.matchMode (s.cnt + BitVec.ofNat 32 (a + b + k)) t.deadline = true) := by
  refine ⟨_, tickWithClks_next_iff.2 ⟨_, _, _, _, exec_tenter_requested hrun hpend hthread,
    exec_t1dl_legal (by simp) (by simpa using hf), exec_t2clr_ready (by simp),
    exec_t3wr_sample (by simp) (sample_of_lt (by simpa using hidx)),
    exec_t4adv_legal (by simp) (by simpa using hidx)⟩, ?_, ?_, ?_, ?_, ?_, ?_, ?_, ?_⟩
  · simp
  · simp
  · simpa using nextIndex_toNat hidx
  · simp
  · simpa using hrun
  · simp
  · simp [BitVec.ofNat_add, BitVec.add_assoc]
  · rw [← exists_edge_add]
    simp [afterClks_pend, BitVec.ofNat_add, BitVec.add_assoc]

/-- A completed tick moves the deadline on by the period of the frequency it finds (R91, R95). -/
theorem tickWithClks_deadline {a b c d : Nat} {s t : State} (h : runInstrs (tickWithClks a b c d) s = .next t) :
    t.deadline = s.deadline + BitVec.ofNat 32 (s.cfg.clockFrequency / s.outf.toNat / 100) := by
  obtain ⟨s₁, s₂, s₃, s₄, h₁, h₂, h₃, h₄, h₅⟩ := tickWithClks_next_iff.1 h
  obtain ⟨-, -, -, rfl⟩ := exec_tenter_next h₁
  obtain ⟨-, -, rfl⟩ := exec_t1dl_next h₂
  obtain ⟨-, rfl⟩ := exec_t2clr_next h₃
  obtain ⟨-, v, -, rfl⟩ := exec_t3wr_next h₄
  obtain ⟨-, -, rfl⟩ := exec_t4adv_next h₅
  simp

/-- Settles O22: the enabling conditions, and the five micro-steps run through the edges between them. -/
theorem one_tick_with_any_clock_interleaving : Obligations.One_tick_with_any_clock_interleaving :=
  ⟨fun _ _ hs he => enabled_in_handler_cases hs he, fun _ a b c d hidx hrun hpend hthread h1 hle =>
    tickWithClks_completes a b c d hidx hrun hpend hthread ⟨h1, hle⟩⟩

/-- Settles O25: neither `SETF` nor a clock edge writes the deadline, and the tick reads the new frequency. -/
theorem frequency_change_takes_effect_at_the_next_tick :
    Obligations.Frequency_change_takes_effect_at_the_next_tick := by
  intro s t u v g n a b c d ht hu hv
  obtain ⟨-, rfl⟩ := exec_setf_next ht
  rw [runInstrs_clks] at hu
  cases hu
  exact ⟨rfl, by simp, by simpa using tickWithClks_deadline hv⟩

/-! ### The traces of R14, with and without the numbers of their ticks -/

section
variable {α : Type} (j : Instr) (get : Completed → α) (k : Nat) (e : Completed) (es : List Completed)

/-- What `get` reads at each completion of the step `j`: the common form of the traces of R14. -/
def traceOf : List α := es.filterMap fun e => if e.step = j then some (get e) else none

/-- The same trace, each entry with the number of its tick, `k` ticks having gone before. -/
def numberedTraceOf : List (Nat × α) :=
  (numbered k es).filterMap fun p => if p.2.step = j then some (p.1 + 1, get p.2) else none

/-- The numbers of the ticks in which the step `j` completes, `k` ticks having gone before. -/
def tickNumbersOf : List Nat := (numbered k es).filterMap fun p => if p.2.step = j then some (p.1 + 1) else none

theorem writeTrace_eq (is : List Instr) (s : State) :
    writeTrace is s = traceOf .t3wr (·.after.cmpreg) (completed is s) := rfl
theorem indexTrace_eq (is : List Instr) (s : State) :
    indexTrace is s = traceOf .t4adv (·.after.idx) (completed is s) := rfl
theorem deadlineTrace_eq (is : List Instr) (s : State) :
    deadlineTrace is s = traceOf .t1dl (·.after.deadline) (completed is s) := rfl
theorem frequencyTrace_eq (is : List Instr) (s : State) :
    frequencyTrace is s = traceOf .t1dl (·.before.outf) (completed is s) := rfl
theorem tickWrites_eq (is : List Instr) (s : State) :
    tickWrites is s = numberedTraceOf .t3wr (·.after.cmpreg) 0 (completed is s) := rfl
theorem tickIndices_eq (is : List Instr) (s : State) :
    tickIndices is s = numberedTraceOf .t4adv (·.after.idx) 0 (completed is s) := rfl

theorem traceOf_cons :
    traceOf j get (e :: es) = if e.step = j then get e :: traceOf j get es else traceOf j get es := by
  unfold traceOf
  rw [List.filterMap_cons]
  split_ifs <;> rfl

theorem tickNumbersOf_cons : tickNumbersOf j k (e :: es) =
    (if e.step = j then [k + 1] else []) ++ tickNumbersOf j (tickNumberAfter e.step k) es := by
  unfold tickNumbersOf
  rw [numbered_cons, List.filterMap_cons]
  split_ifs <;> rfl

theorem map_fst_numberedTraceOf : (numberedTraceOf j get k es).map Prod.fst = tickNumbersOf j k es := by
  unfold numberedTraceOf tickNumbersOf
  rw [List.map_filterMap]
  congr 1
  funext p
  split_ifs <;> rfl

theorem map_snd_numberedTraceOf : (numberedTraceOf j get k es).map Prod.snd = traceOf j get es := by
  unfold numberedTraceOf traceOf
  rw [← numbered_snd k es, List.filterMap_map, List.map_filterMap, numbered_snd]
  congr 1
  funext p
  simp only [Function.comp]
  split_ifs <;> rfl

theorem length_traceOf_eq_length_tickNumbersOf : (traceOf j get es).length = (tickNumbersOf j k es).length := by
  rw [← map_snd_numberedTraceOf j get k, ← map_fst_numberedTraceOf j get, List.length_map, List.length_map]

/-- A trace has one entry for each completion of its step. -/
theorem length_traceOf : (traceOf j get es).length = (es.map Completed.step).count j := by
  induction es with
  | nil => rfl
  | cons e es ih =>
    rw [traceOf_cons, List.map_cons, List.count_cons, ← ih]
    by_cases he : e.step = j <;> simp [he]

variable {j get k es}

theorem mem_numberedTraceOf {n : Nat} {v : α} (h : (n, v) ∈ numberedTraceOf j get k es) :
    ∃ p ∈ numbered k es, p.2.step = j ∧ n = p.1 + 1 ∧ v = get p.2 := by
  obtain ⟨p, hp, h⟩ := List.mem_filterMap.1 h
  split at h <;> cases h
  exact ⟨p, hp, by assumption, rfl, rfl⟩

/-- Where the ticks are numbered 1, 2, ... without a gap, an entry's position in the trace gives the number of its
tick. -/
theorem mem_numberedTraceOf_of_getElem? {n i : Nat} {v : α} (hrange : tickNumbersOf j k es = List.range' 1 n)
    (h : (traceOf j get es)[i]? = some v) : (i + 1, v) ∈ numberedTraceOf j get k es := by
  rw [← map_snd_numberedTraceOf j get k, List.getElem?_map, Option.map_eq_some_iff] at h
  obtain ⟨⟨m, w⟩, hp, rfl⟩ := h
  have hm : (List.range' 1 n)[i]? = some m := by
    rw [← hrange, ← map_fst_numberedTraceOf j get, List.getElem?_map, hp]
    rfl
  obtain ⟨hi, hm⟩ := List.getElem?_eq_some_iff.1 hm
  obtain rfl : m = i + 1 := by simpa [Nat.add_comm] using hm.symm
  exact List.mem_of_getElem? hp

end

section
variable {i : Instr} {is : List Instr} {k : Nat} {s t : State}

/-- The steps of an execution that completes are its completed steps. -/
theorem map_step_completed (h : runInstrs is s = .next t) : (completed is s).map Completed.step = is := by
  induction is generalizing s with
  | nil => rfl
  | cons i is ih =>
    obtain ⟨u, hu, h⟩ := runInstrs_cons_next.1 h
    rw [completed_cons_of_next hu, List.map_cons, ih h]

/-! ### The index is the tick number modulo 100 (R96) -/

theorem exec_keeps_index_of_number (hk : s.idx.toNat = k % 100) (h : exec i s = .next t) :
    t.idx.toNat = tickNumberAfter i k % 100 := by
  cases i with
  | start f =>
    obtain ⟨-, -, -, rfl⟩ := exec_start_next h
    rfl
  | reset =>
    obtain rfl := exec_reset_next h
    rfl
  | t4adv =>
    obtain ⟨-, hidx, rfl⟩ := exec_t4adv_next h
    have hnext := nextIndex_toNat hidx
    simp only [returnFromHandler_idx, tickNumberAfter]
    omega
  | nop | csetup | stop | setf f | tenter | t1dl | t2clr | t3wr | clk =>
    rw [get_idx_inj.1 (exec_keeps_get h (by simp [writes]))]
    exact hk

theorem runInstrs_index (hk : s.idx.toNat = k % 100) (h : runInstrs is s = .next t) :
    t.idx.toNat = lastTick k (completed is s) % 100 := by
  induction is generalizing s k with
  | nil => cases h; exact hk
  | cons i is ih =>
    obtain ⟨u, hu, h⟩ := runInstrs_cons_next.1 h
    rw [completed_cons_of_next hu, lastTick_cons]
    exact ih (exec_keeps_index_of_number hk hu) h

/-- Each completed step, with the number of ticks before it, finds the index of that number and the one `cfg`. -/
theorem index_of_mem_numbered (hk : s.idx.toNat = k % 100) (h : runInstrs is s = .next t) {p : Nat × Completed}
    (hp : p ∈ numbered k (completed is s)) :
    exec p.2.step p.2.before = .next p.2.after ∧ p.2.before.idx.toNat = p.1 % 100 ∧ p.2.before.cfg = s.cfg := by
  induction is generalizing s k with
  | nil => cases hp
  | cons i is ih =>
    obtain ⟨u, hu, h⟩ := runInstrs_cons_next.1 h
    rw [completed_cons_of_next hu, numbered_cons, List.mem_cons] at hp
    obtain rfl | hp := hp
    · exact ⟨hu, hk, rfl⟩
    · obtain ⟨hexec, hidx, hcfg⟩ := ih (exec_keeps_index_of_number hk hu) h hp
      exact ⟨hexec, hidx, hcfg.trans (exec_keeps_cfg hu)⟩

/-- Tick `n` writes `TABLE[(n - 1) mod 100]`. -/
theorem sample_of_mem_tickWrites (hidx : s.idx = 0) (h : runInstrs is s = .next t) {n : Nat} {v : Sample}
    (hn : (n, v) ∈ tickWrites is s) : 1 ≤ n ∧ s.cfg.sample ((n - 1) % 100) = some v := by
  rw [tickWrites_eq] at hn
  obtain ⟨p, hp, hstep, rfl, rfl⟩ := mem_numberedTraceOf hn
  obtain ⟨hexec, hpidx, hcfg⟩ := index_of_mem_numbered (by simp [hidx]) h hp
  rw [hstep] at hexec
  obtain ⟨-, w, hw, hafter⟩ := exec_t3wr_next hexec
  refine ⟨by omega, ?_⟩
  rw [Nat.add_sub_cancel, ← hpidx, ← hcfg, hw, hafter]
  rfl

/-- Tick `n` leaves `IDX = n mod 100`. -/
theorem index_of_mem_tickIndices (hidx : s.idx = 0) (h : runInstrs is s = .next t) {n : Nat} {x : Index}
    (hn : (n, x) ∈ tickIndices is s) : 1 ≤ n ∧ x.toNat = n % 100 := by
  rw [tickIndices_eq] at hn
  obtain ⟨p, hp, hstep, rfl, rfl⟩ := mem_numberedTraceOf hn
  obtain ⟨hexec, hpidx, -⟩ := index_of_mem_numbered (by simp [hidx]) h hp
  rw [hstep] at hexec
  exact ⟨by omega, exec_keeps_index_of_number hpidx hexec⟩

/-! ### The ticks that write are the ticks that complete (R96) -/

/-- The tick that has written its sample and has not advanced the index yet, if there is one, `k` ticks having gone
before. -/
def tickInProgress (k : Nat) (s : State) : List Nat := if s.hstep = 4 then [k + 1] else []

theorem tickInProgress_of_thread (h : s.hstep = 0) : tickInProgress k s = [] := by
  simp [tickInProgress, h]

/-- `T3WR` begins the tick in progress and `T4ADV` ends it; in between there is no `START`, which would number anew. -/
theorem exec_tickInProgress (h : exec i s = .next t) (hreset : i ≠ .reset) :
    tickInProgress k s ++ (if i = .t3wr then [k + 1] else []) =
      (if i = .t4adv then [k + 1] else []) ++ tickInProgress (tickNumberAfter i k) t := by
  cases i with
  | reset => exact absurd rfl hreset
  | nop | csetup | stop | setf f | clk =>
    simp [tickInProgress, tickNumberAfter, exec_keeps_hstep h rfl hreset]
  | start f =>
    have hthread : s.hstep = 0 := (cmdReady_iff s).1 (exec_next_enabled h)
    simp [tickInProgress, hthread, exec_keeps_hstep h rfl hreset]
  | tenter =>
    obtain ⟨-, -, hstep, rfl⟩ := exec_tenter_next h
    simp [tickInProgress, hstep]
  | t1dl =>
    obtain ⟨hstep, -, rfl⟩ := exec_t1dl_next h
    simp [tickInProgress, hstep]
  | t2clr =>
    obtain ⟨hstep, rfl⟩ := exec_t2clr_next h
    simp [tickInProgress, hstep]
  | t3wr =>
    obtain ⟨hstep, v, -, rfl⟩ := exec_t3wr_next h
    simp [tickInProgress, tickNumberAfter, hstep]
  | t4adv =>
    obtain ⟨hstep, -, rfl⟩ := exec_t4adv_next h
    simp [tickInProgress, hstep]

/-- Up to the ticks in progress at the two ends, the ticks that write are the ticks that advance, in order. -/
theorem tickNumbersOf_t3wr_eq_t4adv (h : runInstrs is s = .next t) (hreset : Instr.reset ∉ is) :
    tickInProgress k s ++ tickNumbersOf .t3wr k (completed is s) =
      tickNumbersOf .t4adv k (completed is s) ++ tickInProgress (lastTick k (completed is s)) t := by
  induction is generalizing s k with
  | nil =>
    cases h
    exact List.append_nil _
  | cons i is ih =>
    obtain ⟨hireset, hreset⟩ := List.ne_and_not_mem_of_not_mem_cons hreset
    obtain ⟨u, hu, h⟩ := runInstrs_cons_next.1 h
    rw [completed_cons_of_next hu, tickNumbersOf_cons, tickNumbersOf_cons, lastTick_cons, List.append_assoc,
      ← ih h hreset, ← List.append_assoc, ← List.append_assoc, exec_tickInProgress hu hireset.symm]

theorem tickNumbersOf_t3wr_of_thread (h : runInstrs is s = .next t) (hreset : Instr.reset ∉ is) (hs : s.hstep = 0) :
    tickNumbersOf .t3wr k (completed is s) =
      tickNumbersOf .t4adv k (completed is s) ++ tickInProgress (lastTick k (completed is s)) t := by
  simpa [tickInProgress_of_thread hs] using tickNumbersOf_t3wr_eq_t4adv (k := k) h hreset

/-! ### Executions without `START` and `RESET`: one run -/

/-- The step goes on with the run it is in: it is neither a `START` nor a `RESET`. -/
def StaysInRun (i : Instr) : Prop := i ≠ .reset ∧ ∀ f, i ≠ .start f

theorem staysInRun_of_not_mem (hreset : Instr.reset ∉ is) (hstart : ∀ f, Instr.start f ∉ is) :
    ∀ i ∈ is, StaysInRun i :=
  fun _ hi => ⟨fun h => hreset (h ▸ hi), fun f h => hstart f (h ▸ hi)⟩

/-- In one run only `T4ADV` counts. -/
theorem tickNumberAfter_of_staysInRun (hi : StaysInRun i) :
    tickNumberAfter i k = if i = .t4adv then k + 1 else k := by
  obtain ⟨hreset, hstart⟩ := hi
  cases i with
  | reset => exact absurd rfl hreset
  | start f => exact absurd rfl (hstart f)
  | nop | csetup | stop | setf f | tenter | t1dl | t2clr | t3wr | t4adv | clk => rfl

/-- In one run the completed ticks are numbered on without a gap. -/
theorem tickNumbersOf_t4adv_eq_range' {es : List Completed} (hrun : ∀ e ∈ es, StaysInRun e.step) :
    ∃ n, lastTick k es = k + n ∧ tickNumbersOf .t4adv k es = List.range' (k + 1) n := by
  induction es generalizing k with
  | nil => exact ⟨0, rfl, rfl⟩
  | cons e es ih =>
    obtain ⟨he, hrun⟩ := List.forall_mem_cons.1 hrun
    rw [lastTick_cons, tickNumbersOf_cons, tickNumberAfter_of_staysInRun he]
    by_cases hadv : e.step = .t4adv
    · obtain ⟨n, hlast, hrange⟩ := ih (k := k + 1) hrun
      simp only [if_pos hadv, hlast, hrange]
      exact ⟨n + 1, by omega, rfl⟩
    · simpa only [if_neg hadv, List.nil_append] using ih hrun

theorem tickNumbersOf_t4adv_eq_range'_tickCount (h : runInstrs is s = .next t) (hrun : ∀ i ∈ is, StaysInRun i) :
    tickNumbersOf .t4adv 0 (completed is s) = List.range' 1 (tickCount is s) := by
  rw [← map_step_completed h, List.forall_mem_map] at hrun
  obtain ⟨n, hlast, hrange⟩ := tickNumbersOf_t4adv_eq_range' (k := 0) hrun
  rw [hrange, tickCount, hlast, Nat.zero_add, Nat.zero_add]

/-- From thread context the ticks that write are numbered without a gap too, one more than complete where a tick is in
progress at the end. -/
theorem tickNumbersOf_t3wr_eq_range' (h : runInstrs is s = .next t) (hreset : Instr.reset ∉ is)
    (hstart : ∀ f, Instr.start f ∉ is) (hs : s.hstep = 0) :
    ∃ n, tickNumbersOf .t3wr 0 (completed is s) = List.range' 1 n := by
  rw [tickNumbersOf_t3wr_of_thread h hreset hs,
    tickNumbersOf_t4adv_eq_range'_tickCount h (staysInRun_of_not_mem hreset hstart)]
  unfold tickInProgress
  split
  · exact ⟨tickCount is s + 1, by rw [List.range'_1_concat, Nat.add_comm 1]; rfl⟩
  · exact ⟨tickCount is s, List.append_nil _⟩

end

/-- Settles O23: the index is the tick number modulo 100 throughout; the ticks that write are those that complete, since
between a `T3WR` and its `T4ADV` nothing renumbers; and in one run the numbers are the positions in the traces. -/
theorem every_sample_once_and_in_order : Obligations.Every_sample_once_and_in_order := by
  intro is s t hidx h
  refine ⟨runInstrs_index (by simp [hidx]) h, fun n v => sample_of_mem_tickWrites hidx h,
    fun n x => index_of_mem_tickIndices hidx h, fun hs ht hreset => ?_, fun hs hreset hstart => ?_⟩
  · have hnumbers : tickNumbersOf .t3wr 0 (completed is s) = tickNumbersOf .t4adv 0 (completed is s) := by
      rw [tickNumbersOf_t3wr_of_thread h hreset hs, tickInProgress_of_thread ht, List.append_nil]
    rw [tickWrites_eq, tickIndices_eq, map_fst_numberedTraceOf, map_fst_numberedTraceOf, writeTrace_eq, indexTrace_eq,
      length_traceOf_eq_length_tickNumbersOf _ _ 0, length_traceOf_eq_length_tickNumbersOf _ _ 0, hnumbers]
    exact ⟨rfl, rfl⟩
  · have hadvs := tickNumbersOf_t4adv_eq_range'_tickCount h (staysInRun_of_not_mem hreset hstart)
    obtain ⟨n, hwrites⟩ := tickNumbersOf_t3wr_eq_range' h hreset hstart hs
    refine ⟨fun ht => ?_, ?_, ?_, fun k v hv => ?_, fun k x hx => ?_⟩
    · rw [writeTrace_eq, length_traceOf_eq_length_tickNumbersOf _ _ 0, tickNumbersOf_t3wr_of_thread h hreset hs,
        tickInProgress_of_thread ht, List.append_nil, hadvs, List.length_range']
    · rw [indexTrace_eq, length_traceOf_eq_length_tickNumbersOf _ _ 0, hadvs, List.length_range']
    · rw [writeTrace_eq, length_traceOf, map_step_completed h]
    · exact (sample_of_mem_tickWrites hidx h (mem_numberedTraceOf_of_getElem? hwrites hv)).2
    · exact (index_of_mem_tickIndices hidx h (mem_numberedTraceOf_of_getElem? hadvs hx)).2

/-! ### The deadline is the sum of the periods (R97) -/

section
variable {i : Instr} {is : List Instr} {s t : State}

theorem periodSum_cons_eq_some {c : Cfg} {f : Word} {fs : List Word} {r : Word} :
    periodSum c (f :: fs) = some r ↔ ∃ p q, c.tickPeriod f = some p ∧ periodSum c fs = some q ∧ r = p + q := by
  simp only [periodSum]
  cases c.tickPeriod f <;> cases periodSum c fs <;> simp [eq_comm]

/-- The sum of `n` equal periods. -/
theorem periodSum_replicate {c : Cfg} {f : Word} {n : Nat} {r : Word}
    (h : periodSum c (List.replicate n f) = some r) : r = BitVec.ofNat 32 (n * (c.clockFrequency / f.toNat / 100)) := by
  induction n generalizing r with
  | zero => cases h; simp
  | succ n ih =>
    obtain ⟨p, q, hp, hq, rfl⟩ := periodSum_cons_eq_some.1 h
    rw [(tickPeriod_some hp).2, ih hq, ← BitVec.ofNat_add, Nat.succ_mul, Nat.add_comm]

/-- In one run only `T1DL` moves the deadline (R38). -/
theorem exec_keeps_deadline (h : exec i s = .next t) (hi : StaysInRun i) (hdl : i ≠ .t1dl) :
    t.deadline = s.deadline := by
  obtain ⟨hreset, hstart⟩ := hi
  cases i with
  | reset => exact absurd rfl hreset
  | start f => exact absurd rfl (hstart f)
  | t1dl => exact absurd rfl hdl
  | nop | csetup | stop | setf f | tenter | t2clr | t3wr | t4adv | clk =>
    exact get_deadline_inj.1 (exec_keeps_get h (by simp [writes]))

/-- In one run only `SETF` changes the frequency (R38). -/
theorem exec_keeps_outf (h : exec i s = .next t) (hi : StaysInRun i) (hsetf : ∀ f, i ≠ .setf f) : t.outf = s.outf := by
  obtain ⟨hreset, hstart⟩ := hi
  cases i with
  | reset => exact absurd rfl hreset
  | start f => exact absurd rfl (hstart f)
  | setf f => exact absurd rfl (hsetf f)
  | nop | csetup | stop | tenter | t1dl | t2clr | t3wr | t4adv | clk =>
    exact get_outf_inj.1 (exec_keeps_get h (by simp [writes]))

/-- `T1DL` adds the period of the frequency it sees, which has one (R91). -/
theorem exec_t1dl_period (h : exec .t1dl s = .next t) :
    ∃ p, s.cfg.tickPeriod s.outf = some p ∧ t.deadline = s.deadline + p := by
  obtain ⟨-, hf, rfl⟩ := exec_t1dl_next h
  exact ⟨_, tickPeriod_of_ne_zero (ne_zero_of_one_le hf.1), rfl⟩

theorem deadlineTrace_cons {u : State} (h : exec i s = .next u) : deadlineTrace (i :: is) s =
    if i = .t1dl then u.deadline :: deadlineTrace is u else deadlineTrace is u := by
  rw [deadlineTrace_eq, completed_cons_of_next h, traceOf_cons]
  rfl

theorem frequencyTrace_cons {u : State} (h : exec i s = .next u) : frequencyTrace (i :: is) s =
    if i = .t1dl then s.outf :: frequencyTrace is u else frequencyTrace is u := by
  rw [frequencyTrace_eq, completed_cons_of_next h, traceOf_cons]
  rfl

/-- The deadline at the end of a run is the starting deadline plus the periods of the frequencies seen. -/
theorem runInstrs_deadline (hrun : ∀ i ∈ is, StaysInRun i) (h : runInstrs is s = .next t) :
    ∃ p, periodSum s.cfg (frequencyTrace is s) = some p ∧ t.deadline = s.deadline + p := by
  induction is generalizing s with
  | nil =>
    cases h
    exact ⟨0, rfl, (BitVec.add_zero _).symm⟩
  | cons i is ih =>
    obtain ⟨hi, hrest⟩ := List.forall_mem_cons.1 hrun
    obtain ⟨u, hu, h⟩ := runInstrs_cons_next.1 h
    obtain ⟨q, hq, ht⟩ := ih hrest h
    rw [exec_keeps_cfg hu] at hq
    rw [frequencyTrace_cons hu]
    by_cases hdl : i = .t1dl
    · subst hdl
      obtain ⟨p, hp, hud⟩ := exec_t1dl_period hu
      exact ⟨p + q, periodSum_cons_eq_some.2 ⟨p, q, hp, hq, rfl⟩, by rw [ht, hud, BitVec.add_assoc]⟩
    · rw [if_neg hdl]
      exact ⟨q, hq, by rw [ht, exec_keeps_deadline hu hi hdl]⟩

/-- Each entry of the deadline trace is the starting deadline plus the periods of the frequencies seen so far. -/
theorem deadline_of_getElem?_deadlineTrace (hrun : ∀ i ∈ is, StaysInRun i) (h : runInstrs is s = .next t) {k : Nat}
    {d : Word} (hd : (deadlineTrace is s)[k]? = some d) :
    ∃ p, periodSum s.cfg ((frequencyTrace is s).take (k + 1)) = some p ∧ d = s.deadline + p := by
  induction is generalizing s k with
  | nil => cases hd
  | cons i is ih =>
    obtain ⟨hi, hrest⟩ := List.forall_mem_cons.1 hrun
    obtain ⟨u, hu, htail⟩ := runInstrs_cons_next.1 h
    rw [deadlineTrace_cons hu] at hd
    rw [frequencyTrace_cons hu]
    by_cases hdl : i = .t1dl
    · subst hdl
      obtain ⟨p, hp, hud⟩ := exec_t1dl_period hu
      cases k with
      | zero =>
        cases hd
        exact ⟨p + 0, periodSum_cons_eq_some.2 ⟨p, 0, hp, rfl, rfl⟩, by rw [hud, add_zero]⟩
      | succ k =>
        obtain ⟨q, hq, rfl⟩ := ih hrest htail hd
        rw [exec_keeps_cfg hu] at hq
        exact ⟨p + q, periodSum_cons_eq_some.2 ⟨p, q, hp, hq, rfl⟩, by rw [hud, BitVec.add_assoc]⟩
    · rw [if_neg hdl] at hd ⊢
      obtain ⟨q, hq, rfl⟩ := ih hrest htail hd
      rw [exec_keeps_cfg hu] at hq
      exact ⟨q, hq, by rw [exec_keeps_deadline hu hi hdl]⟩

/-- Without a `SETF` every `T1DL` of a run sees the starting frequency. -/
theorem frequencyTrace_eq_replicate (hrun : ∀ i ∈ is, StaysInRun i) (hsetf : ∀ f, Instr.setf f ∉ is)
    (h : runInstrs is s = .next t) : frequencyTrace is s = List.replicate (is.count .t1dl) s.outf := by
  induction is generalizing s with
  | nil => rfl
  | cons i is ih =>
    simp only [List.mem_cons, not_or, forall_and] at hsetf
    obtain ⟨hisetf, hsetf⟩ := hsetf
    obtain ⟨hi, hrest⟩ := List.forall_mem_cons.1 hrun
    obtain ⟨u, hu, h⟩ := runInstrs_cons_next.1 h
    rw [frequencyTrace_cons hu, ih hrest hsetf h, exec_keeps_outf hu hi fun f => Ne.symm (hisetf f), List.count_cons]
    by_cases hdl : i = .t1dl <;> simp [hdl, List.replicate_succ]

end

/-- Settles O24, by induction on the execution; a constant frequency makes the sum a multiple of its period. -/
theorem deadlines_are_sums_of_periods : Obligations.Deadlines_are_sums_of_periods := by
  intro is s t hreset hstart h
  have hrun := staysInRun_of_not_mem hreset hstart
  obtain ⟨p, hp, ht⟩ := runInstrs_deadline hrun h
  refine ⟨fun k d hd => deadline_of_getElem?_deadlineTrace hrun h hd, ⟨p, hp, ht⟩, fun hsetf => ?_⟩
  rw [frequencyTrace_eq_replicate hrun hsetf h] at hp
  rw [ht, periodSum_replicate hp]

end Sys2Proof.Machine

/-! PROOFS. The hardware event statements: the waveform goes on for ever under F1 and F2 (R106, R155), the clock event,
the counter and the comparator (R100 to R102), the carrier and the duty cycle (R103 to R105), and the free order of the
enabled steps (R106, R116). -/

namespace Sys2Proof.Machine

/-! ### The waveform repeats for ever (R106, R155) -/

section
variable {i j : Instr} {s t : State}

/-- Two micro-steps of the handler that are enabled together are one (R76). -/
theorem eq_of_enabled_inHandler (hi : i.inHandler = true) (hj : j.inHandler = true) (hei : enabled i s = true)
    (hej : enabled j s = true) : i = j :=
  Option.some_injective _ ((handlerInstr_of_enabled hi hei).symm.trans (handlerInstr_of_enabled hj hej))

/-- With the flag clear in thread context no micro-step of the handler is enabled (R76, R114). -/
theorem not_inHandler_of_not_pend (h : exec i s = .next t) (hpend : s.pend = false) (hthread : s.hstep = 0) :
    i.inHandler = false := by
  have he := exec_next_enabled h
  cases i with
  | nop | csetup | start f | stop | setf f | clk | reset => rfl
  | tenter => simp [enabled_tenter_iff, hpend] at he
  | t1dl | t2clr | t3wr | t4adv => simp [enabled, hthread] at he

theorem ne_of_keepsRunning (hi : keepsRunning i = true) : i ≠ .reset ∧ ∀ f, i ≠ .start f := by
  constructor
  · rintro rfl
    cases hi
  · rintro f rfl
    cases hi

/-- Of the steps that write `RUN` none keeps the engine running (R38). -/
theorem exec_keeps_run (h : exec i s = .next t) (hi : keepsRunning i = true) : t.run = s.run := by
  refine get_run_inj.1 (exec_keeps_get h ?_)
  cases i with
  | start f | stop | reset => cases hi
  | nop | csetup | setf f | tenter | t1dl | t2clr | t3wr | t4adv | clk => simp [writes]

/-- What stays while the handler waits for its turn: its place, the index, the deadline and a raised flag. -/
theorem exec_outside_handler (h : exec i s = .next t) (hi : i.inHandler = false) (hrun : keepsRunning i = true) :
    t.hstep = s.hstep ∧ t.idx = s.idx ∧ t.deadline = s.deadline ∧ (s.pend = true → t.pend = true) := by
  obtain ⟨hreset, hstart⟩ := ne_of_keepsRunning hrun
  obtain ⟨hidx, hdeadline, -⟩ := not_mem_writes_outside_handler hi hstart hreset
  refine ⟨exec_keeps_hstep h hi hreset, get_idx_inj.1 (exec_keeps_get h hidx),
    get_deadline_inj.1 (exec_keeps_get h hdeadline), fun hpend => ?_⟩
  by_contra hclear
  obtain rfl | rfl | ⟨f, rfl⟩ := (pending_flag_has_one_setter i s t h).2 hpend (by simpa using hclear)
  · cases hi
  · exact hreset rfl
  · exact hstart f rfl

/-- The counter is written by `CLK` and `RESET` only (R101). -/
theorem exec_keeps_cnt (h : exec i s = .next t) (hclk : i ≠ .clk) (hreset : i ≠ .reset) : t.cnt = s.cnt := by
  refine get_cnt_inj.1 (exec_keeps_get h ?_)
  cases i with
  | clk => exact absurd rfl hclk
  | reset => exact absurd rfl hreset
  | nop | csetup | start f | stop | setf f | tenter | t1dl | t2clr | t3wr | t4adv => simp [writes]

theorem edgesToDeadline_congr (hcnt : t.cnt = s.cnt) (hdeadline : t.deadline = s.deadline) :
    edgesToDeadline t = edgesToDeadline s := by
  rw [edgesToDeadline, edgesToDeadline, hcnt, hdeadline]

/-- A clock edge brings the deadline one edge nearer, and the last one raises the flag (R101, R102). -/
theorem clockEdge_pend_or_nearer (s : State) : (carrierEdge (tickTimerEdge s)).pend = true ∨
    edgesToDeadline (carrierEdge (tickTimerEdge s)) + 1 = edgesToDeadline s := by
  by_cases hlast : s.cnt + 1 = s.deadline
  · left
    rw [carrierEdge_pend, tickTimerEdge_pend, comparedPend, hlast, deadlineMatch_self, Bool.or_true]
  · right
    simp only [edgesToDeadline, carrierEdge_cnt, carrierEdge_deadline, tickTimerEdge_cnt, tickTimerEdge_deadline]
    split <;> split <;> bv_omega

end

/-- An infinite execution from a running state with the invariants that keeps running, under F1 and F2: the premises of
the liveness statement. -/
structure FairRun (steps : Nat → Instr) (states : Nat → State) : Prop where
  isExecution : IsExecution steps states
  invStart : Inv (states 0)
  runStart : (states 0).run = true
  keepsRunning : ∀ n, keepsRunning (steps n) = true
  clockFair : ClockFair steps
  handlerFair : HandlerFair steps states

/-- From every state of the execution with `P` on there is one with `Q`. -/
def LeadsTo (states : Nat → State) (P Q : State → Prop) : Prop :=
  ∀ n, P (states n) → ∃ m, n ≤ m ∧ Q (states m)

/-- The handler is at `HSTEP = k` with index `x`; at `k = 0` the next tick has not begun. -/
def AtPhase (k : HandlerStep) (x : Nat) (s : State) : Prop := s.hstep = k ∧ s.idx.toNat = x

/-- The next tick has not begun, its flag is clear, and the deadline is `r` edges ahead. -/
def Waiting (x r : Nat) (s : State) : Prop := AtPhase 0 x s ∧ s.pend = false ∧ edgesToDeadline s = r

/-- The next tick has not begun, and it is requested. -/
def Requested (x : Nat) (s : State) : Prop := AtPhase 0 x s ∧ s.run = true ∧ s.pend = true

theorem LeadsTo.trans {states : Nat → State} {P Q R : State → Prop} (hPQ : LeadsTo states P Q)
    (hQR : LeadsTo states Q R) : LeadsTo states P R := by
  intro n hn
  obtain ⟨m, hnm, hm⟩ := hPQ n hn
  obtain ⟨l, hml, hl⟩ := hQR m hm
  exact ⟨l, hnm.trans hml, hl⟩

namespace FairRun
variable {steps : Nat → Instr} {states : Nat → State} {i : Instr} {k : HandlerStep} {x : Nat} {P : State → Prop}

theorem inv (h : FairRun steps states) (n : Nat) : Inv (states n) := by
  induction n with
  | zero => exact h.invStart
  | succ n ih => exact exec_keeps_inv ih (h.isExecution n)

theorem run (h : FairRun steps states) (n : Nat) : (states n).run = true := by
  induction n with
  | zero => exact h.runStart
  | succ n ih => rw [exec_keeps_run (h.isExecution n) (h.keepsRunning n), ih]

/-- A micro-step that `P` enables fires, if `P` lasts through the steps outside the handler: no other micro-step is
enabled meanwhile, so F2 applies. -/
theorem fires_of_stable (h : FairRun steps states) (hi : i.inHandler = true) (hen : ∀ s, P s → enabled i s = true)
    (hstable : ∀ j s t, P s → exec j s = .next t → j.inHandler = false → Machine.keepsRunning j = true → P t)
    {n : Nat} (hn : P (states n)) : ∃ m, n ≤ m ∧ steps m = i ∧ P (states m) := by
  by_contra hnever
  have hlasts : ∀ m, n ≤ m → P (states m) := by
    intro m hm
    induction m, hm using Nat.le_induction with
    | base => exact hn
    | succ m hm ih =>
      refine hstable _ _ _ ih (h.isExecution m) ?_ (h.keepsRunning m)
      by_contra hhandler
      have hfired := eq_of_enabled_inHandler (by simpa using hhandler) hi (exec_next_enabled (h.isExecution m))
        (hen _ ih)
      exact hnever ⟨m, hm, hfired, ih⟩
  obtain ⟨m, hm, hfired⟩ := h.handlerFair i hi n fun m hm => hen _ (hlasts m hm)
  exact hnever ⟨m, hm, hfired, hlasts m hm⟩

/-- In handler context the micro-step that `HSTEP` names fires, at the index it finds. -/
theorem fires_at_phase (h : FairRun steps states) (hi : i.inHandler = true)
    (hen : ∀ {s : State}, enabled i s = true ↔ s.hstep = k) {n : Nat} (hn : AtPhase k x (states n)) :
    ∃ m, n ≤ m ∧ steps m = i ∧ AtPhase k x (states m) := by
  refine h.fires_of_stable hi (fun s hs => hen.2 hs.1) (fun j s t hs ht hj hrun => ?_) hn
  obtain ⟨hstep, hidx, -, -⟩ := exec_outside_handler ht hj hrun
  exact ⟨hstep.trans hs.1, by rw [hidx, hs.2]⟩

/-- The next clock edge comes, by F1, and finds the wait as it was. -/
theorem clk_while_waiting (h : FairRun steps states) {r n : Nat} (hn : Waiting x r (states n)) :
    ∃ m, n ≤ m ∧ steps m = .clk ∧ Waiting x r (states m) := by
  by_contra hnever
  have hlasts : ∀ m, n ≤ m → Waiting x r (states m) := by
    intro m hm
    induction m, hm using Nat.le_induction with
    | base => exact hn
    | succ m hm ih =>
      have hclk : steps m ≠ .clk := fun hclk => hnever ⟨m, hm, hclk, ih⟩
      obtain ⟨⟨hthread, hidx⟩, hpend, hedges⟩ := ih
      have hexec := h.isExecution m
      have hrun := h.keepsRunning m
      obtain ⟨hreset, -⟩ := ne_of_keepsRunning hrun
      obtain ⟨hstep, hidx', hdeadline, -⟩ :=
        exec_outside_handler hexec (not_inHandler_of_not_pend hexec hpend hthread) hrun
      refine ⟨⟨hstep.trans hthread, by rw [hidx', hidx]⟩, ?_, ?_⟩
      · exact Bool.eq_false_iff.2 fun hrise => hclk ((pending_flag_has_one_setter _ _ _ hexec).1 hpend hrise)
      · rw [edgesToDeadline_congr (exec_keeps_cnt hexec hclk hreset) hdeadline, hedges]
  obtain ⟨m, hm, hclk⟩ := h.clockFair n
  exact hnever ⟨m, hm, hclk, hlasts m hm⟩

/-- The deadline comes, by induction on the number of edges to it. -/
theorem waiting_leadsTo_requested (h : FairRun steps states) (r : Nat) :
    LeadsTo states (Waiting x r) (Requested x) := by
  induction r with
  | zero =>
    rintro n ⟨-, -, hedges⟩
    have := edgesToDeadline_bounds (states n)
    omega
  | succ r ih =>
    intro n hn
    obtain ⟨m, hnm, hclk, ⟨⟨hthread, hidx⟩, -, hedges⟩⟩ := h.clk_while_waiting hn
    have hnext := exec_clk_next (hclk ▸ h.isExecution m)
    have hphase : AtPhase 0 x (states (m + 1)) := by simp [AtPhase, hnext, hthread, hidx]
    cases hpend : (states (m + 1)).pend with
    | true => exact ⟨m + 1, by omega, hphase, h.run _, hpend⟩
    | false =>
      have hnearer := clockEdge_pend_or_nearer (states m)
      rw [← hnext, hpend] at hnearer
      obtain ⟨l, hml, hl⟩ := ih (m + 1) ⟨hphase, hpend, by simpa [hedges] using hnearer⟩
      exact ⟨l, by omega, hl⟩

theorem thread_leadsTo_requested (h : FairRun steps states) : LeadsTo states (AtPhase 0 x) (Requested x) := by
  intro n hn
  cases hpend : (states n).pend with
  | true => exact ⟨n, le_rfl, hn, h.run n, hpend⟩
  | false => exact h.waiting_leadsTo_requested _ n ⟨hn, hpend, rfl⟩

/-- A requested tick is entered (R90). -/
theorem requested_leadsTo_entered (h : FairRun steps states) : LeadsTo states (Requested x) (AtPhase 1 x) := by
  intro n hn
  obtain ⟨m, hnm, hfired, ⟨⟨-, hidx⟩, -⟩⟩ := h.fires_of_stable (i := .tenter) rfl
    (fun s ⟨⟨hthread, _⟩, hrun, hpend⟩ => enabled_tenter_iff.2 ⟨hrun, hpend, hthread⟩)
    (fun j s t ⟨⟨hthread, hidx⟩, hrun, hpend⟩ ht hj hkeeps => by
      obtain ⟨hstep, hidx', -, hpend'⟩ := exec_outside_handler ht hj hkeeps
      exact ⟨⟨hstep.trans hthread, by rw [hidx', hidx]⟩, (exec_keeps_run ht hkeeps).trans hrun, hpend' hpend⟩) hn
  obtain ⟨-, -, -, hnext⟩ := exec_tenter_next (hfired ▸ h.isExecution m)
  exact ⟨m + 1, by omega, by simp [AtPhase, hnext, hidx]⟩

/-- The micro-step that `HSTEP` names takes the handler on to where its effect leads. -/
theorem phase_leadsTo (h : FairRun steps states) (hi : i.inHandler = true)
    (hen : ∀ {s : State}, enabled i s = true ↔ s.hstep = k) {l : HandlerStep} {y : Nat}
    (hnext : ∀ s t, AtPhase k x s → exec i s = .next t → AtPhase l y t) :
    LeadsTo states (AtPhase k x) (AtPhase l y) := by
  intro n hn
  obtain ⟨m, hnm, hfired, hm⟩ := h.fires_at_phase hi hen hn
  exact ⟨m + 1, by omega, hnext _ _ hm (hfired ▸ h.isExecution m)⟩

theorem phase1_leadsTo_phase2 (h : FairRun steps states) : LeadsTo states (AtPhase 1 x) (AtPhase 2 x) := by
  refine h.phase_leadsTo (i := .t1dl) rfl enabled_t1dl_iff fun s t ⟨_, hidx⟩ ht => ?_
  obtain ⟨-, -, rfl⟩ := exec_t1dl_next ht
  exact ⟨rfl, hidx⟩

theorem phase2_leadsTo_phase3 (h : FairRun steps states) : LeadsTo states (AtPhase 2 x) (AtPhase 3 x) := by
  refine h.phase_leadsTo (i := .t2clr) rfl enabled_t2clr_iff fun s t ⟨_, hidx⟩ ht => ?_
  obtain ⟨-, rfl⟩ := exec_t2clr_next ht
  exact ⟨rfl, hidx⟩

theorem phase3_leadsTo_phase4 (h : FairRun steps states) : LeadsTo states (AtPhase 3 x) (AtPhase 4 x) := by
  refine h.phase_leadsTo (i := .t3wr) rfl enabled_t3wr_iff fun s t ⟨_, hidx⟩ ht => ?_
  obtain ⟨-, v, -, rfl⟩ := exec_t3wr_next ht
  exact ⟨rfl, hidx⟩

/-- The tick ends with the index advanced (R94). -/
theorem phase4_leadsTo_thread (h : FairRun steps states) :
    LeadsTo states (AtPhase 4 x) (AtPhase 0 ((x + 1) % 100)) := by
  refine h.phase_leadsTo (i := .t4adv) rfl enabled_t4adv_iff fun s t ⟨_, hidx⟩ ht => ?_
  obtain ⟨-, hlegal, rfl⟩ := exec_t4adv_next ht
  exact ⟨rfl, by rw [returnFromHandler_idx, nextIndex_toNat hlegal, hidx]⟩

theorem phase3_leadsTo_thread (h : FairRun steps states) :
    LeadsTo states (AtPhase 3 x) (AtPhase 0 ((x + 1) % 100)) :=
  h.phase3_leadsTo_phase4.trans h.phase4_leadsTo_thread

theorem phase1_leadsTo_phase3 (h : FairRun steps states) : LeadsTo states (AtPhase 1 x) (AtPhase 3 x) :=
  h.phase1_leadsTo_phase2.trans h.phase2_leadsTo_phase3

theorem thread_leadsTo_phase3 (h : FairRun steps states) : LeadsTo states (AtPhase 0 x) (AtPhase 3 x) :=
  (h.thread_leadsTo_requested.trans h.requested_leadsTo_entered).trans h.phase1_leadsTo_phase3

/-- Tick after tick the index goes round (R96). -/
theorem thread_leadsTo_later_thread (h : FairRun steps states) (hx : x < 100) (d : Nat) :
    LeadsTo states (AtPhase 0 x) (AtPhase 0 ((x + d) % 100)) := by
  induction d with
  | zero =>
    rw [Nat.add_zero, Nat.mod_eq_of_lt hx]
    exact fun n hn => ⟨n, le_rfl, hn⟩
  | succ d ih =>
    have htick := ih.trans (h.thread_leadsTo_phase3.trans h.phase3_leadsTo_thread)
    rwa [Nat.mod_add_mod] at htick

/-- Wherever the handler stands, the tick it is in ends. -/
theorem eventually_thread (h : FairRun steps states) (n : Nat) :
    ∃ m x, n ≤ m ∧ x < 100 ∧ AtPhase 0 x (states m) := by
  have ends {P : State → Prop} (hP : LeadsTo states P (AtPhase 0 (((states n).idx.toNat + 1) % 100)))
      (hn : P (states n)) : ∃ m x, n ≤ m ∧ x < 100 ∧ AtPhase 0 x (states m) := by
    obtain ⟨m, hnm, hm⟩ := hP n hn
    exact ⟨m, _, hnm, Nat.mod_lt _ (by decide), hm⟩
  have hrange := (h.inv n).hstepRange
  have hcases : (states n).hstep = 0 ∨ (states n).hstep = 1 ∨ (states n).hstep = 2 ∨ (states n).hstep = 3 ∨
      (states n).hstep = 4 := by bv_omega
  obtain hk | hk | hk | hk | hk := hcases
  · exact ⟨n, _, le_rfl, Nat.lt_succ_of_le (h.inv n).idxRange, hk, rfl⟩
  · exact ends (h.phase1_leadsTo_phase3.trans h.phase3_leadsTo_thread) ⟨hk, rfl⟩
  · exact ends (h.phase2_leadsTo_phase3.trans h.phase3_leadsTo_thread) ⟨hk, rfl⟩
  · exact ends h.phase3_leadsTo_thread ⟨hk, rfl⟩
  · exact ends h.phase4_leadsTo_thread ⟨hk, rfl⟩

/-- From every point on `T3WR` fires at every index. -/
theorem t3wr_fires_at_index (h : FairRun steps states) {j : Nat} (hj : j < 100) (n : Nat) :
    ∃ m, n ≤ m ∧ steps m = .t3wr ∧ (states m).idx.toNat = j := by
  obtain ⟨m, x, hnm, hx, hm⟩ := h.eventually_thread n
  have hround := (h.thread_leadsTo_later_thread hx (j + 100 - x)).trans h.thread_leadsTo_phase3
  rw [show (x + (j + 100 - x)) % 100 = j by omega] at hround
  obtain ⟨l, hml, hl⟩ := hround m hm
  obtain ⟨w, hlw, hfired, -, hidx⟩ := h.fires_at_phase (i := .t3wr) rfl enabled_t3wr_iff hl
  exact ⟨w, by omega, hfired, hidx⟩

end FairRun

/-- Settles O45: F1 brings the deadline, F2 every micro-step of the tick, so the ticks go round the table. -/
theorem waveform_repeats_for_ever : Obligations.Waveform_repeats_for_ever := by
  intro steps states hexec hinv hrun hkeeps hclock hhandler j n hj
  have h : FairRun steps states := ⟨hexec, hinv, hrun, hkeeps, hclock, hhandler⟩
  obtain ⟨m, hnm, hfired, hidx⟩ := h.t3wr_fires_at_index hj n
  obtain ⟨-, v, hv, hnext⟩ := exec_t3wr_next (hfired ▸ hexec m)
  refine ⟨m, hnm, hfired, hidx, ?_⟩
  rw [← hidx, hv, hnext]
  rfl

/-! ### The clock edge, the counter and the comparator (R100 to R102) -/

/-- One edge of the carrier, register by register (R103). -/
theorem carrierEdge_eq (s : State) : carrierEdge s = { s with
    ccnt := if s.cen = true then if s.ccnt.toNat + 1 = s.cfg.carrierPeriod then 0 else s.ccnt + 1 else s.ccnt
    cmpact :=
      if s.cen = true then if s.ccnt.toNat + 1 = s.cfg.carrierPeriod then s.cmpreg else s.cmpact else s.cmpact } := by
  by_cases hcen : s.cen = true
  · by_cases hlast : s.ccnt.toNat + 1 = s.cfg.carrierPeriod
    · simp only [carrierEdge, if_pos hcen, if_pos hlast]
    · simp only [carrierEdge, if_pos hcen, if_neg hlast]
  · simp only [carrierEdge, if_neg hcen]

/-- The sticky flag after a comparison: a match sets it, no match leaves it (R29, R102). -/
theorem comparedPend_eq (s : State) (c : Word) :
    comparedPend s c = if deadlineMatch s.cfg.matchMode c s.deadline then true else s.pend := by
  rw [comparedPend]
  cases deadlineMatch s.cfg.matchMode c s.deadline with
  | true => exact Bool.or_true _
  | false => exact Bool.or_false _

/-- Settles O27: the comparator and the carrier, each register by register. -/
theorem clock_edge : Obligations.Clock_edge := by
  intro s hperiod
  have hlast : s.ccnt.toNat = s.cfg.carrierPeriod - 1 ↔ s.ccnt.toNat + 1 = s.cfg.carrierPeriod := by omega
  rw [exec_clk, carrierEdge_eq]
  simp only [tickTimerEdge, comparedPend_eq, hlast]

/-- Settles O29: no column but those of `CLK` and `RESET` writes `CNT`. -/
theorem counter_is_free_running : Obligations.Counter_is_free_running := by
  intro i s t h hreset
  by_cases hclk : i = .clk
  · subst hclk
    obtain rfl := exec_clk_next h
    simp
  · rw [if_neg hclk]
    exact exec_keeps_cnt h hclk hreset

/-- A deadline `k` cycles behind the count is reached, `k` below half the counter's range (R102, R150). -/
theorem deadlineMatch_reached_of_behind (c : Word) {k : Nat} (hk : k < 2 ^ 31) :
    deadlineMatch .reached c (c - BitVec.ofNat 32 k) = true := by
  simp only [deadlineMatch, decide_eq_true_eq]
  bv_omega

/-- A deadline up to half the counter's range ahead of the count is not reached (R102, R150). -/
theorem deadlineMatch_reached_of_ahead (c : Word) {k : Nat} (h1 : 1 ≤ k) (hk : k ≤ 2 ^ 31) :
    deadlineMatch .reached c (c + BitVec.ofNat 32 k) = false := by
  simp only [deadlineMatch, decide_eq_false_iff_not]
  bv_omega

/-- Settles O28: modular distances on either side of half the counter's range, and the sticky flag. -/
theorem comparator_half_range : Obligations.Comparator_half_range := by
  refine ⟨fun c k => deadlineMatch_reached_of_behind c, fun c k => deadlineMatch_reached_of_ahead c,
    fun c d => beq_iff_eq, fun s t h => ?_⟩
  obtain rfl := exec_clk_next h
  simp [comparedPend]

/-- Settles O31: the deadline is the first match of the edges on the way to it. -/
theorem pending_exactly_at_the_deadline : Obligations.Pending_exactly_at_the_deadline :=
  fun s _ n hpend h1 hk hdeadline hn =>
    ⟨afterClks n s, runInstrs_clks n, afterClks_pend_at_deadline hpend h1 hk hdeadline hn⟩

/-! ### The carrier (R103, R105) -/

section
variable {i : Instr} {is : List Instr} {s t u : State}

/-- The carrier and the output are written by `CSETUP`, `CLK` and `RESET` only (R38). -/
theorem exec_keeps_carrier (h : exec i s = .next t) (hcsetup : i ≠ .csetup) (hreset : i ≠ .reset) (hclk : i ≠ .clk) :
    t.cen = s.cen ∧ t.ccnt = s.ccnt ∧ t.cmpact = s.cmpact ∧ t.oen = s.oen ∧ t.pol = s.pol := by
  have hw : ∀ r ∈ [Reg.cen, .ccnt, .cmpact, .oen, .pol], r ∉ writes i := by
    cases i with
    | csetup => exact absurd rfl hcsetup
    | reset => exact absurd rfl hreset
    | clk => exact absurd rfl hclk
    | nop | start f | stop | setf f | tenter | t1dl | t2clr | t3wr | t4adv => simp [writes]
  exact ⟨get_cen_inj.1 (exec_keeps_get h (hw _ (by decide))), get_ccnt_inj.1 (exec_keeps_get h (hw _ (by decide))),
    get_cmpact_inj.1 (exec_keeps_get h (hw _ (by decide))), get_oen_inj.1 (exec_keeps_get h (hw _ (by decide))),
    get_pol_inj.1 (exec_keeps_get h (hw _ (by decide)))⟩

/-- `CMPREG` is written by `T3WR`, `CSETUP` and `RESET` only (R38). -/
theorem exec_keeps_cmpreg (h : exec i s = .next t) (ht3wr : i ≠ .t3wr) (hcsetup : i ≠ .csetup) (hreset : i ≠ .reset) :
    t.cmpreg = s.cmpreg := by
  refine get_cmpreg_inj.1 (exec_keeps_get h ?_)
  cases i with
  | t3wr => exact absurd rfl ht3wr
  | csetup => exact absurd rfl hcsetup
  | reset => exact absurd rfl hreset
  | nop | start f | stop | setf f | tenter | t1dl | t2clr | t4adv | clk => simp [writes]

/-- The last edge of a carrier period: the count wraps and `CMPREG` is loaded (R103). -/
theorem clockEdge_at_last (hcen : s.cen = true) (hlast : s.ccnt.toNat + 1 = s.cfg.carrierPeriod) :
    (carrierEdge (tickTimerEdge s)).ccnt = 0 ∧ (carrierEdge (tickTimerEdge s)).cmpact = s.cmpreg := by
  rw [clockEdge_ccnt, clockEdge_cmpact, if_pos hcen, if_pos hlast, if_pos ⟨hcen, hlast⟩]
  exact ⟨rfl, rfl⟩

/-- Every other edge of a carrier period counts on and loads nothing (R103). -/
theorem clockEdge_before_last (hcen : s.cen = true) (hperiod : s.cfg.carrierPeriod ≤ 2 ^ 16)
    (hlt : s.ccnt.toNat + 1 < s.cfg.carrierPeriod) :
    (carrierEdge (tickTimerEdge s)).ccnt.toNat = s.ccnt.toNat + 1 ∧
      (carrierEdge (tickTimerEdge s)).cmpact = s.cmpact := by
  rw [clockEdge_ccnt, clockEdge_cmpact, if_pos hcen, if_neg hlt.ne, if_neg fun h => hlt.ne h.2]
  have hadd : (s.ccnt + 1).toNat = (s.ccnt.toNat + 1) % 2 ^ 16 := BitVec.toNat_add s.ccnt 1
  exact ⟨by omega, rfl⟩

/-- Settles O32, by induction on the execution: the last edge of the period makes `CMPACT` equal to `CMPREG`, and then
they stay equal. -/
theorem sample_takes_effect_at_the_next_carrier_period :
    Obligations.Sample_takes_effect_at_the_next_carrier_period := by
  intro is s t hcen hccnt hperiod ht3wr hcsetup hreset h
  induction is generalizing s with
  | nil =>
    cases h
    exact (if_pos (Nat.sub_pos_of_lt hccnt)).symm
  | cons i is ih =>
    obtain ⟨hi3, his3⟩ := List.ne_and_not_mem_of_not_mem_cons ht3wr
    obtain ⟨hic, hisc⟩ := List.ne_and_not_mem_of_not_mem_cons hcsetup
    obtain ⟨hir, hisr⟩ := List.ne_and_not_mem_of_not_mem_cons hreset
    obtain ⟨u, hu, h⟩ := runInstrs_cons_next.1 h
    have hcfg := exec_keeps_cfg hu
    have hcmpreg := exec_keeps_cmpreg hu hi3.symm hic.symm hir.symm
    by_cases hclk : i = .clk
    · subst hclk
      obtain rfl := exec_clk_next hu
      rw [List.count_cons_self]
      by_cases hlast : s.ccnt.toNat + 1 = s.cfg.carrierPeriod
      · obtain ⟨hwrap, hload⟩ := clockEdge_at_last hcen hlast
        rw [ih _ (by simpa using hcen) (by simp [hwrap]; omega) (by simpa using hperiod) his3 hisc hisr h,
          hload, hcmpreg, ite_self, if_neg (by omega)]
      · obtain ⟨hcount, hkept⟩ := clockEdge_before_last hcen hperiod (by omega)
        rw [ih _ (by simpa using hcen) (by rw [hcount, hcfg]; omega) (by simpa using hperiod) his3 hisc hisr h,
          hkept, hcmpreg, hcount, hcfg]
        congr 1
        simp only [eq_iff_iff]
        omega
    · obtain ⟨hcen', hccnt', hcmpact, -, -⟩ := exec_keeps_carrier hu hic.symm hir.symm hclk
      rw [ih u (hcen'.trans hcen) (by rwa [hccnt', hcfg]) (by rwa [hcfg]) his3 hisc hisr h,
        List.count_cons_of_ne hclk, hcmpact, hcmpreg, hccnt', hcfg]

end

/-! ### The duty cycle (R104) -/

/-- Cycle `k` of a carrier period of the configuration `c`, with the output enabled in polarity `p` and the compare
value `a` in force. -/
structure InPeriod (c : Cfg) (p : Bool) (a : Sample) (k : Nat) (s : State) : Prop where
  cfg : s.cfg = c
  cen : s.cen = true
  oen : s.oen = true
  pol : s.pol = p
  cmpact : s.cmpact = a
  ccnt : s.ccnt.toNat = k

/-- The pin in cycle `k` under the compare value `a` and polarity `p` (R37). -/
def pinAt (p : Bool) (a : Sample) (k : Nat) : Pin := .driven (if k < a.toNat then !p else p)

section
variable {c : Cfg} {p : Bool} {a : Sample} {k : Nat} {i : Instr} {is : List Instr} {s t : State}

theorem pwmOut_eq_pinAt (hoen : s.oen = true) : pwmOut s = pinAt s.pol s.cmpact s.ccnt.toNat := by
  by_cases hactive : s.ccnt.toNat < s.cmpact.toNat <;> simp [pwmOut, carrierActive, pinAt, hoen, hactive]

theorem pinAt_eq_active_iff : pinAt p a k = .driven (!p) ↔ k < a.toNat := by
  by_cases hactive : k < a.toNat <;> simp [pinAt, hactive]

theorem pinAt_eq_inactive_iff : pinAt p a k = .driven p ↔ a.toNat ≤ k := by
  by_cases hactive : k < a.toNat
  · simp [pinAt, hactive]
  · simp [pinAt, hactive, Nat.le_of_not_lt hactive]

/-- Over the cycles of a whole period the pin is active first, for as many cycles as the compare value says. -/
theorem map_pinAt_range {n : Nat} (ha : a.toNat ≤ n) : (List.range n).map (pinAt p a) =
    List.replicate a.toNat (.driven (!p)) ++ List.replicate (n - a.toNat) (.driven p) := by
  obtain ⟨m, rfl⟩ := Nat.exists_eq_add_of_le ha
  rw [List.range_add, List.map_append, List.map_map, Nat.add_sub_cancel_left]
  congr 1
  · refine List.eq_replicate_iff.2 ⟨by simp, List.forall_mem_map.2 fun k hk => ?_⟩
    exact pinAt_eq_active_iff.2 (List.mem_range.1 hk)
  · refine List.eq_replicate_iff.2 ⟨by simp, List.forall_mem_map.2 fun k _ => ?_⟩
    exact pinAt_eq_inactive_iff.2 (Nat.le_add_right _ _)

/-- Between two edges the cycle goes on, whatever the other steps do. -/
theorem InPeriod.of_not_clk (hs : InPeriod c p a k s) (h : exec i s = .next t) (hcsetup : i ≠ .csetup)
    (hreset : i ≠ .reset) (hclk : i ≠ .clk) : InPeriod c p a k t := by
  obtain ⟨hcen, hccnt, hcmpact, hoen, hpol⟩ := exec_keeps_carrier h hcsetup hreset hclk
  exact {
    cfg := (exec_keeps_cfg h).trans hs.cfg
    cen := hcen.trans hs.cen
    oen := hoen.trans hs.oen
    pol := hpol.trans hs.pol
    cmpact := hcmpact.trans hs.cmpact
    ccnt := by rw [hccnt, hs.ccnt] }

/-- An edge within the period begins its next cycle. -/
theorem InPeriod.clockEdge (hs : InPeriod c p a k s) (hc : c.carrierPeriod ≤ 2 ^ 16) (hk : k + 1 < c.carrierPeriod) :
    InPeriod c p a (k + 1) (carrierEdge (tickTimerEdge s)) := by
  obtain ⟨rfl, hcen, hoen, hpol, hcmpact, rfl⟩ := hs
  obtain ⟨hcount, hkept⟩ := clockEdge_before_last hcen hc hk
  exact {
    cfg := by simp
    cen := by simpa using hcen
    oen := by simpa using hoen
    pol := by simpa using hpol
    cmpact := hkept.trans hcmpact
    ccnt := hcount }

/-- The last edge of a period begins cycle 0 of the next one, with the `CMPREG` of that moment in force. -/
theorem inPeriod_of_last_edge (hcen : s.cen = true) (hoen : s.oen = true)
    (hlast : s.ccnt.toNat + 1 = s.cfg.carrierPeriod) :
    InPeriod s.cfg s.pol s.cmpreg 0 (carrierEdge (tickTimerEdge s)) := by
  obtain ⟨hwrap, hload⟩ := clockEdge_at_last hcen hlast
  exact {
    cfg := by simp
    cen := by simpa using hcen
    oen := by simpa using hoen
    pol := by simp
    cmpact := hload
    ccnt := by rw [hwrap]; rfl }

theorem pinTrace_eq (is : List Instr) (s : State) :
    pinTrace is s = traceOf .clk (fun e => pwmOut e.after) (completed is s) := rfl

theorem pinTrace_cons {u : State} (h : exec i s = .next u) :
    pinTrace (i :: is) s = if i = .clk then pwmOut u :: pinTrace is u else pinTrace is u := by
  rw [pinTrace_eq, completed_cons_of_next h, traceOf_cons]
  rfl

/-- From cycle `k` on, up to the end of the period, the pin shows one cycle per edge, and the compare value in force
does not change. -/
theorem InPeriod.run (hs : InPeriod c p a k s) (hc : c.carrierPeriod ≤ 2 ^ 16)
    (hk : k + is.count .clk < c.carrierPeriod) (hcsetup : Instr.csetup ∉ is) (hreset : Instr.reset ∉ is)
    (h : runInstrs is s = .next t) :
    pinTrace is s = (List.range' (k + 1) (is.count .clk)).map (pinAt p a) ∧
      ∀ e ∈ completed is s, ∃ m, InPeriod c p a m e.after := by
  induction is generalizing s k with
  | nil => exact ⟨rfl, List.forall_mem_nil _⟩
  | cons i is ih =>
    obtain ⟨hic, hisc⟩ := List.ne_and_not_mem_of_not_mem_cons hcsetup
    obtain ⟨hir, hisr⟩ := List.ne_and_not_mem_of_not_mem_cons hreset
    obtain ⟨u, hu, h⟩ := runInstrs_cons_next.1 h
    rw [pinTrace_cons hu, completed_cons_of_next hu, List.forall_mem_cons]
    by_cases hclk : i = .clk
    · subst hclk
      rw [List.count_cons_self] at hk ⊢
      obtain rfl := exec_clk_next hu
      have hnext := hs.clockEdge hc (by omega)
      obtain ⟨hpins, hall⟩ := ih hnext (by omega) hisc hisr h
      refine ⟨?_, ⟨_, hnext⟩, hall⟩
      rw [if_pos rfl, hpins, pwmOut_eq_pinAt hnext.oen, hnext.pol, hnext.cmpact, hnext.ccnt,
        List.range'_succ, List.map_cons]
    · rw [List.count_cons_of_ne hclk] at hk ⊢
      have hnext := hs.of_not_clk hu hic.symm hir.symm hclk
      obtain ⟨hpins, hall⟩ := ih hnext hk hisc hisr h
      exact ⟨by rw [if_neg hclk, hpins], ⟨_, hnext⟩, hall⟩

/-- Over a whole period from the edge that begins it, the pin shows its cycles from 0 on. -/
theorem carrier_period (hcen : s.cen = true) (hoen : s.oen = true) (hc : s.cfg.carrierPeriod ≤ 2 ^ 16)
    (hlast : s.ccnt.toNat + 1 = s.cfg.carrierPeriod) (hcsetup : Instr.csetup ∉ is) (hreset : Instr.reset ∉ is)
    (hcount : (Instr.clk :: is).count .clk = s.cfg.carrierPeriod) (h : runInstrs (.clk :: is) s = .next t) :
    pinTrace (.clk :: is) s = (List.range s.cfg.carrierPeriod).map (pinAt s.pol s.cmpreg) ∧
      ∀ e ∈ completed (.clk :: is) s, ∃ m, InPeriod s.cfg s.pol s.cmpreg m e.after := by
  have hfirst := inPeriod_of_last_edge hcen hoen hlast
  rw [runInstrs_cons_of_next exec_clk] at h
  rw [List.count_cons_self] at hcount
  obtain ⟨hpins, hall⟩ := hfirst.run hc (by omega) hcsetup hreset h
  rw [pinTrace_cons exec_clk, completed_cons_of_next exec_clk, List.forall_mem_cons]
  refine ⟨?_, ⟨_, hfirst⟩, hall⟩
  rw [if_pos rfl, hpins, pwmOut_eq_pinAt hfirst.oen, hfirst.pol, hfirst.cmpact, hfirst.ccnt, ← hcount,
    List.range_eq_range', List.range'_succ, List.map_cons]

end

/-- Settles O33: the pins of the period's cycles in order, the active ones first. -/
theorem duty_cycle_law : Obligations.Duty_cycle_law := by
  intro s hcen hoen hpos hc hlast hcmpreg
  replace hlast : s.ccnt.toNat + 1 = s.cfg.carrierPeriod := by omega
  have hpins {is : List Instr} {t : State} (hcsetup : Instr.csetup ∉ is) (hreset : Instr.reset ∉ is)
      (hcount : (Instr.clk :: is).count .clk = s.cfg.carrierPeriod) (h : runInstrs (.clk :: is) s = .next t) :
      pinTrace (.clk :: is) s = List.replicate s.cmpreg.toNat (.driven (!s.pol)) ++
        List.replicate (s.cfg.carrierPeriod - s.cmpreg.toNat) (.driven s.pol) :=
    (carrier_period hcen hoen hc hlast hcsetup hreset hcount h).1.trans (map_pinAt_range hcmpreg.le)
  refine ⟨fun is t hcsetup hreset hcount h => ⟨hpins hcsetup hreset hcount h, fun e he => ?_⟩, ?_⟩
  · obtain ⟨m, hm⟩ := (carrier_period hcen hoen hc hlast hcsetup hreset hcount h).2 e he
    rw [pwmOut_eq_pinAt hm.oen, hm.pol, hm.cmpact]
    exact ⟨rfl, pinAt_eq_active_iff, pinAt_eq_inactive_iff⟩
  · obtain ⟨n, hn⟩ := Nat.exists_eq_add_of_le' hpos
    have hclks : clks s.cfg.carrierPeriod = .clk :: clks n := by rw [hn]; rfl
    have hperiod := hpins (is := clks n) (by simp [clks]) (by simp [clks]) (by simp [clks, hn])
      (by rw [← hclks]; exact runInstrs_clks _)
    rw [hclks, hperiod]
    simp [List.count_append, List.count_replicate]

/-! ### The free order of the enabled steps (R106, R116) -/

/-- The twelve steps of R12 by who performs them. -/
theorem performer_cases (i : Instr) : i.wellFormed = true ∨ i.inHandler = true ∨ i = .clk ∨ i = .reset := by
  cases i with
  | nop | csetup | start f | stop | setf f => exact .inl rfl
  | tenter | t1dl | t2clr | t3wr | t4adv => exact .inr (.inl rfl)
  | clk => exact .inr (.inr (.inl rfl))
  | reset => exact .inr (.inr (.inr rfl))

/-- Every command is what some word spells (R75). -/
theorem exists_decode_of_wellFormed {i : Instr} (hi : i.wellFormed = true) : ∃ w, decode w = some i := by
  obtain ⟨w, hw⟩ := exists_encode hi
  exact ⟨w, decode_of_encode hw⟩

/-- With an agent's turn put first, that turn is the next one (log entry 5). -/
theorem step_of_turn_first {s : State} (hg : GoodCfg s.cfg) (a : Agent) :
    step { s with schedule := a :: s.schedule } = runTurn (agentTurn a s) :=
  step_of_schedule (s := { s with schedule := a :: s.schedule }) hg rfl

/-- Settles O51: a command goes next when the host presents its word, every other step on the turn of its agent. -/
theorem every_enabled_step_can_go_next : Obligations.Every_enabled_step_can_go_next := by
  intro i s hg he
  obtain hi | hi | rfl | rfl := performer_cases i
  · obtain ⟨w, hw⟩ := exists_decode_of_wellFormed hi
    have hready : s.hstep = 0 := (cmdReady_iff s).1 ((enabled_of_wellFormed hi s).symm.trans he)
    exact ⟨.host, [w], step_runs_the_decoded_command _ s.schedule w s.commands i hg hready rfl rfl hw⟩
  · exact ⟨.handler, [],
      (step_of_turn_first hg .handler).trans (runTurn_handler_of_some (handlerInstr_of_enabled hi he))⟩
  · exact ⟨.clock, [], step_of_turn_first hg .clock⟩
  · exact ⟨.reset, [], step_of_turn_first hg .reset⟩

end Sys2Proof.Machine

/-! PROOFS. The exception statements: the order of the causes (R113) and the stops (R110), the late tick (R119, R156),
and the ticks of overrun-free executions on the grid of their deadlines (R120). -/

namespace Sys2Proof.Machine

/-! ### The order of the causes (R113) -/

/-- `START` in thread context with `RUN = 1` or without a carrier is refused before its frequency is looked at (R82). -/
theorem exec_start_sequence {s : State} {f : Word} (hready : s.hstep = 0) (h : s.run = true ∨ s.cen = false) :
    exec (.start f) s = .refused (.sequence (.start f) s.run s.cen) := by
  rw [exec_start_ready hready]
  cases hrun : s.run with
  | true => rfl
  | false =>
    have hcen : s.cen = false := by simpa [hrun] using h
    rw [hcen]
    rfl

/-- A presented command runs in a state that differs from the present one in the environment's side only. -/
theorem exists_step_issues {s : State} {rest : List Agent} {w : CmdWord} {ws : List CmdWord} (hg : GoodCfg s.cfg)
    (hready : s.hstep = 0) (hs : s.schedule = .host :: rest) (hc : s.commands = w :: ws) :
    ∃ u, SameRegisters s u ∧ ∀ i, decode w = some i → step s = exec i u :=
  ⟨{ s with schedule := rest, commands := ws }, rfl, fun i =>
    step_runs_the_decoded_command s rest w ws i hg hready hs hc⟩

/-- Settles O16: a reserved op is refused before a command is issued; the command's own checks then come in the order of
the rule. -/
theorem first_cause_is_reported : Obligations.First_cause_is_reported := by
  intro s rest w ws hg hready hs hc op f
  obtain ⟨u, hsame, hstep⟩ := exists_step_issues hg hready hs hc
  have huready : u.hstep = 0 := by rw [hsame]; exact hready
  have hrun : s.run = u.run := by rw [hsame]
  have hcen : s.cen = u.cen := by rw [hsame]
  have hcfg : s.cfg = u.cfg := by rw [hsame]
  have hcsetup (hop : op = 1#3) : step s = exec .csetup u := hstep _ (decode_of_opField hop)
  have hstart (hop : op = 2#3) : step s = exec (.start f) u := hstep _ (decode_of_opField hop)
  have hsetf (hop : op = 4#3) : step s = exec (.setf f) u := hstep _ (decode_of_opField hop)
  rw [hrun, hcen, hcfg]
  refine ⟨step_refuses_a_reserved_word s rest w ws hg hready hs hc, fun hop h1 => ?_, fun hop hseq => ?_,
    fun hop h0 h1 hzero => ?_, fun hop h0 h1 hhigh => ?_, fun hop hzero => ?_, fun hop hhigh => ?_⟩
  · rw [hcsetup hop, exec_csetup_ready huready, if_pos h1]
  · rw [hstart hop, exec_start_sequence huready hseq]
  · rw [hstart hop, exec_start_stopped huready h0 h1, hzero, withLegalFrequency_zero]
  · rw [hstart hop, exec_start_stopped huready h0 h1, withLegalFrequency_high _ hhigh]
  · rw [hsetf hop, exec_setf_ready huready, hzero, withLegalFrequency_zero]
  · rw [hsetf hop, exec_setf_ready huready, withLegalFrequency_high _ hhigh]

/-! ### The stops of the enabled steps (R110) -/

/-- The causes 2 to 4 of R110, case by case: what stops an enabled step in a state that meets the invariants. -/
def HasListedCause (i : Instr) (s : State) : Prop :=
  (i = .csetup ∧ s.run = true) ∨
    ∃ f, (i = .start f ∧ (s.run = true ∨ s.cen = false ∨ f = 0 ∨ s.cfg.clockFrequency / 100 < f.toNat)) ∨
      (i = .setf f ∧ (f = 0 ∨ s.cfg.clockFrequency / 100 < f.toNat))

/-- An answer of the step `i` in `s` that stops it with the record of cause 2, 3 or 4. -/
def IsListedStop (i : Instr) (s : State) (r : Result) : Prop :=
  r = .refused (.sequence i s.run s.cen) ∨ r = .fault (.freqZero i) ∨ ∃ f, r = .fault (.freqRange i f)

/-- The step completes and no cause applies, or a cause applies and the step stops with its record. -/
def StopsIfListed (i : Instr) (s : State) : Prop :=
  (¬ HasListedCause i s ∧ ∃ t, exec i s = .next t) ∨ (HasListedCause i s ∧ IsListedStop i s (exec i s))

section
variable {i : Instr} {s t : State} {f : Word}

/-- No cause of the list names a step other than `CSETUP`, `START` and `SETF`. -/
theorem StopsIfListed.of_next (h : exec i s = .next t) (hcsetup : i ≠ .csetup) (hstart : ∀ f, i ≠ .start f)
    (hsetf : ∀ f, i ≠ .setf f) : StopsIfListed i s :=
  .inl ⟨by simp [HasListedCause, hcsetup, hstart, hsetf], t, h⟩

/-- A frequency that is not legal is zero or above `F_MAX`. -/
theorem legalFrequency_iff (c : Cfg) (f : Word) :
    c.legalFrequency f ↔ ¬ (f = 0 ∨ c.clockFrequency / 100 < f.toNat) := by
  have hzero : f = 0 ↔ f.toNat = 0 := by
    rw [← BitVec.toNat_inj]
    rfl
  rw [hzero, Cfg.legalFrequency, Cfg.fMax]
  omega

/-- The frequency check stops the step for the two causes R110 gives it. -/
theorem withLegalFrequency_stops {k : Word → Result} (h : f = 0 ∨ s.cfg.clockFrequency / 100 < f.toNat) :
    IsListedStop i s (withLegalFrequency i f s k) := by
  obtain rfl | hhigh := h
  · exact .inr (.inl rfl)
  · exact .inr (.inr ⟨f, withLegalFrequency_high k hhigh⟩)

theorem csetup_stopsIfListed (hready : s.hstep = 0) : StopsIfListed .csetup s := by
  rw [StopsIfListed, exec_csetup_ready hready]
  by_cases hrun : s.run = true
  · rw [if_pos hrun]
    exact .inr ⟨.inl ⟨rfl, hrun⟩, .inl rfl⟩
  · rw [if_neg hrun]
    exact .inl ⟨by simpa [HasListedCause] using hrun, _, rfl⟩

theorem setf_stopsIfListed (hready : s.hstep = 0) : StopsIfListed (.setf f) s := by
  have hcause : HasListedCause (.setf f) s ↔ f = 0 ∨ s.cfg.clockFrequency / 100 < f.toNat := by simp [HasListedCause]
  rw [StopsIfListed, hcause, exec_setf_ready hready, ← legalFrequency_iff]
  by_cases hf : s.cfg.legalFrequency f
  · exact .inl ⟨hf, _, withLegalFrequency_of_legal _ hf⟩
  · have hillegal := not_not.1 (mt (legalFrequency_iff _ _).2 hf)
    exact .inr ⟨hillegal, withLegalFrequency_stops hillegal⟩

theorem start_stopsIfListed (hready : s.hstep = 0) : StopsIfListed (.start f) s := by
  have hcause : HasListedCause (.start f) s ↔
      (s.run = true ∨ s.cen = false) ∨ (f = 0 ∨ s.cfg.clockFrequency / 100 < f.toNat) := by
    simp [HasListedCause, or_assoc]
  rw [StopsIfListed, hcause]
  by_cases hseq : s.run = true ∨ s.cen = false
  · exact .inr ⟨.inl hseq, .inl (exec_start_sequence hready hseq)⟩
  · obtain ⟨hrun, hcen⟩ : s.run = false ∧ s.cen = true := by simpa using hseq
    rw [exec_start_stopped hready hrun hcen]
    by_cases hf : s.cfg.legalFrequency f
    · exact .inl ⟨not_or.2 ⟨hseq, (legalFrequency_iff _ _).1 hf⟩, _, withLegalFrequency_of_legal _ hf⟩
    · have hillegal := not_not.1 (mt (legalFrequency_iff _ _).2 hf)
      exact .inr ⟨.inr hillegal, withLegalFrequency_stops hillegal⟩

/-- In a state that meets the invariants every enabled step completes, or stops for a cause of the list. -/
theorem stopsIfListed_of_enabled (hs : Inv s) (he : enabled i s = true) : StopsIfListed i s := by
  have hidx : s.idx.toNat < 100 := Nat.lt_succ_of_le hs.idxRange
  cases i with
  | csetup => exact csetup_stopsIfListed ((cmdReady_iff s).1 he)
  | start f => exact start_stopsIfListed ((cmdReady_iff s).1 he)
  | setf f => exact setf_stopsIfListed ((cmdReady_iff s).1 he)
  | nop =>
    obtain ⟨-, -, hnop⟩ := nop_changes_nothing
    exact .of_next (hnop s ((cmdReady_iff s).1 he)) nofun nofun nofun
  | stop => exact .of_next (exec_stop_ready ((cmdReady_iff s).1 he)) nofun nofun nofun
  | tenter =>
    obtain ⟨hrun, hpend, hthread⟩ := enabled_tenter_iff.1 he
    exact .of_next (exec_tenter_requested hrun hpend hthread) nofun nofun nofun
  | t1dl => exact .of_next (exec_t1dl_legal (enabled_t1dl_iff.1 he) hs.outfLegal) nofun nofun nofun
  | t2clr => exact .of_next (exec_t2clr_ready (enabled_t2clr_iff.1 he)) nofun nofun nofun
  | t3wr => exact .of_next (exec_t3wr_sample (enabled_t3wr_iff.1 he) (sample_of_lt hidx)) nofun nofun nofun
  | t4adv => exact .of_next (exec_t4adv_legal (enabled_t4adv_iff.1 he) hidx) nofun nofun nofun
  | clk => exact .of_next exec_clk nofun nofun nofun
  | reset => exact .of_next exec_reset nofun nofun nofun

end

/-- Settles O40: the step's answer is `next` exactly where no cause applies, and otherwise the record of one. -/
theorem steps_stop_only_for_the_listed_causes : Obligations.Steps_stop_only_for_the_listed_causes := by
  intro i s hs he
  obtain ⟨hfree, t, ht⟩ | ⟨hcause, hstop⟩ := stopsIfListed_of_enabled hs he
  · rw [ht]
    exact ⟨⟨fun _ => hfree, fun _ => ⟨t, rfl⟩⟩, nofun, nofun⟩
  · refine ⟨⟨?_, fun hfree => absurd hcause hfree⟩, fun r hr => ?_, fun r hr => ?_⟩
    · rintro ⟨t, ht⟩
      obtain h | h | ⟨f, h⟩ := ht ▸ hstop <;> cases h
    · obtain h | h | ⟨f, h⟩ := hr ▸ hstop <;> cases h
      rfl
    · obtain h | h | ⟨f, h⟩ := hr ▸ hstop <;> cases h
      · exact .inl rfl
      · exact .inr ⟨f, rfl⟩

/-! ### The late tick (R119, R156) -/

section
variable {s t : State} {n : Nat}

/-- After a `T2CLR` the flag is what the edges since then make of it (R92, R102). -/
theorem afterClks_pend_of_t2clr (h : exec .t2clr s = .next t) : (afterClks n t).pend = true ↔
    ∃ k, 1 ≤ k ∧ k ≤ n ∧ deadlineMatch s.cfg.matchMode (s.cnt + BitVec.ofNat 32 k) s.deadline = true := by
  obtain ⟨-, rfl⟩ := exec_t2clr_next h
  simp [afterClks_pend]

/-- The count comes round to a deadline `(c - d)` cycles behind it after the rest of a period of the counter, and not
before (R101). -/
theorem add_eq_deadline_iff {c d : Word} {k : Nat} (h1 : 1 ≤ k) (hk : k ≤ 2 ^ 32 - (c - d).toNat) :
    c + BitVec.ofNat 32 k = d ↔ k = 2 ^ 32 - (c - d).toNat := by
  constructor
  · intro h
    bv_omega
  · rintro rfl
    bv_omega

end

/-- Settles O44: with the new deadline behind, the next edge matches under `reached`; under `equal` no edge does before
the count has come round. -/
theorem late_tick_catches_up_or_is_lost : Obligations.Late_tick_catches_up_or_is_lost := by
  intro s t n ht hlate hn
  refine ⟨fun hmode => ⟨_, runInstrs_clks n, ?_⟩, fun hmode hle => ⟨_, runInstrs_clks n, ?_⟩⟩
  · rw [afterClks_pend_of_t2clr ht, hmode]
    refine ⟨1, le_rfl, hn, ?_⟩
    simp only [deadlineMatch, decide_eq_true_eq]
    bv_omega
  · rw [afterClks_pend_of_t2clr ht, hmode]
    simp only [deadlineMatch, beq_iff_eq]
    constructor
    · rintro ⟨k, h1, hk, hmatch⟩
      have hround := (add_eq_deadline_iff h1 (hk.trans hle)).1 hmatch
      omega
    · rintro rfl
      exact ⟨_, hn, le_rfl, (add_eq_deadline_iff hn le_rfl).2 rfl⟩

/-! ### Ticks on time as far as the registers show (R120 under `reached`) -/

section
variable {i : Instr} {s t : State}

/-- `HSTEP` becomes 1 by `TENTER` and 2 by `T1DL` only (R90, R91). -/
theorem hstep_before_clear (h : exec i s = .next t) :
    (t.hstep = 1 → i = .tenter ∨ s.hstep = 1) ∧ (t.hstep = 2 → i = .t1dl ∨ s.hstep = 2) := by
  cases i with
  | nop | csetup | start f | stop | setf f | clk =>
    rw [exec_keeps_hstep h rfl nofun]
    exact ⟨.inr, .inr⟩
  | tenter => rw [(exec_tenter_next h).2.2.2]; simp
  | t1dl => rw [(exec_t1dl_next h).2.2]; simp
  | t2clr => rw [(exec_t2clr_next h).2]; simp
  | t3wr => obtain ⟨-, v, -, rfl⟩ := exec_t3wr_next h; simp
  | t4adv => rw [(exec_t4adv_next h).2.2]; simp
  | reset => rw [exec_reset_next h]; simp

/-- In one run only `CLK` and `T2CLR` write the pending flag (R38). -/
theorem exec_keeps_pend_in_run (h : exec i s = .next t) (hi : StaysInRun i) (hclk : i ≠ .clk) (hclr : i ≠ .t2clr) :
    t.pend = s.pend := by
  obtain ⟨hreset, hstart⟩ := hi
  cases i with
  | reset => exact absurd rfl hreset
  | start f => exact absurd rfl (hstart f)
  | clk => exact absurd rfl hclk
  | t2clr => exact absurd rfl hclr
  | nop | csetup | stop | setf f | tenter | t1dl | t3wr | t4adv => exact exec_keeps_pend h (by simp [writes])

/-- Where the registers show no lateness: the comparator is `reached`, a clear flag has its deadline ahead, and the flag
stays set from the entry to `T2CLR`. -/
structure ShownOnTime (s : State) : Prop where
  mode : s.cfg.matchMode = .reached
  ahead : s.pend = false → ¬ deadlineReached s
  inService : s.hstep = 1 ∨ s.hstep = 2 → s.pend = true

/-- A deadline ahead is reached by the next edge exactly if it is the next count (R102). -/
theorem clockEdge_reaches_iff (hahead : ¬ deadlineReached s) :
    deadlineReached (carrierEdge (tickTimerEdge s)) ↔ s.cnt + 1 = s.deadline := by
  simp only [deadlineReached, carrierEdge_cnt, carrierEdge_deadline, tickTimerEdge_cnt, tickTimerEdge_deadline] at *
  constructor
  · intro h
    bv_omega
  · intro h
    bv_omega

/-- Under `reached` a clear flag is raised by the edge that reaches the deadline (R102). -/
theorem clockEdge_pend_iff_reached (hmode : s.cfg.matchMode = .reached) (hpend : s.pend = false) :
    (carrierEdge (tickTimerEdge s)).pend = true ↔ deadlineReached (carrierEdge (tickTimerEdge s)) := by
  simp [comparedPend, hpend, hmode, deadlineMatch, deadlineReached]

theorem ShownOnTime.clockEdge (hs : ShownOnTime s) : ShownOnTime (carrierEdge (tickTimerEdge s)) where
  mode := by simpa using hs.mode
  ahead := by
    intro hpend
    have hbefore : s.pend = false := by
      simp only [carrierEdge_pend, tickTimerEdge_pend, comparedPend, Bool.or_eq_false_iff] at hpend
      exact hpend.1
    rw [← clockEdge_pend_iff_reached hs.mode hbefore, hpend]
    exact Bool.false_ne_true
  inService := by
    intro hstep
    have hpend := hs.inService (by simpa using hstep)
    simp [comparedPend, hpend]

/-- The deadline `START` writes is ahead: its period is at least 1 and less than half the counter's range (R82). -/
theorem not_deadlineReached_of_start {f : Word} (hg : GoodCfg s.cfg) (h : exec (.start f) s = .next t) :
    ¬ deadlineReached t := by
  obtain ⟨-, -, ⟨h1, hle⟩, rfl⟩ := exec_start_next h
  have hpos := one_le_period h1 hle
  have hmax := period_le s.cfg.clockFrequency f.toNat
  have hclock := hg.clockHigh
  have hlt : s.cfg.clockFrequency / f.toNat / 100 ≤ 2 ^ 31 := by omega
  have hahead := deadlineMatch_reached_of_ahead s.cnt hpos hlt
  simpa [deadlineMatch, deadlineReached] using hahead

/-- Every step but `RESET` keeps the registers free of lateness, where each `T2CLR` comes before the new deadline. -/
theorem ShownOnTime.step (hs : ShownOnTime s) (hg : GoodCfg s.cfg) (h : exec i s = .next t) (hreset : i ≠ .reset)
    (hclr : i = .t2clr → ¬ deadlineReached s) : ShownOnTime t := by
  have hmode : t.cfg.matchMode = .reached := by rw [exec_keeps_cfg h, hs.mode]
  obtain ⟨hone, htwo⟩ := hstep_before_clear h
  cases i with
  | reset => exact absurd rfl hreset
  | clk =>
    obtain rfl := exec_clk_next h
    exact hs.clockEdge
  | start f =>
    have hthread : t.hstep = 0 :=
      (exec_keeps_hstep h rfl hreset).trans ((cmdReady_iff s).1 (exec_next_enabled h))
    exact ⟨hmode, fun _ => not_deadlineReached_of_start hg h, by simp [hthread]⟩
  | t2clr =>
    obtain ⟨-, rfl⟩ := exec_t2clr_next h
    exact ⟨hmode, fun _ => hclr rfl, by simp⟩
  | tenter =>
    obtain ⟨-, hpend, -, rfl⟩ := exec_tenter_next h
    exact ⟨hmode, by simp [hpend], fun _ => hpend⟩
  | t1dl =>
    obtain ⟨hstep, -, rfl⟩ := exec_t1dl_next h
    have hpend := hs.inService (.inl hstep)
    exact ⟨hmode, by simp [hpend], fun _ => hpend⟩
  | nop | csetup | stop | setf f | t3wr | t4adv =>
    have hrun : StaysInRun _ := ⟨hreset, nofun⟩
    have hpend := exec_keeps_pend_in_run h hrun nofun nofun
    refine ⟨hmode, ?_, ?_⟩
    · rw [hpend, deadlineReached, exec_keeps_cnt h nofun hreset, exec_keeps_deadline h hrun nofun]
      exact hs.ahead
    · rw [hpend]
      exact fun hstep => hs.inService (hstep.imp (by simpa using hone) (by simpa using htwo))

/-- The flag rises at the very edge that makes the count the deadline. -/
theorem ShownOnTime.cnt_eq_deadline (hs : ShownOnTime s) (h : exec i s = .next t) (hbefore : s.pend = false)
    (hafter : t.pend = true) : t.cnt = t.deadline := by
  obtain rfl := (pending_flag_has_one_setter i s t h).1 hbefore hafter
  obtain rfl := exec_clk_next h
  have hreach := (clockEdge_pend_iff_reached hs.mode hbefore).1 hafter
  simpa using (clockEdge_reaches_iff (hs.ahead hbefore)).1 hreach

end

/-- Settles O43, by induction on the execution: the registers stay free of lateness, so an edge that raises the flag
finds the deadline ahead and can only reach it by meeting it. -/
theorem overrun_free_ticks_come_on_time : Obligations.Overrun_free_ticks_come_on_time := by
  intro is s hmode hinv hahead hservice hreset hfree
  have hs : ShownOnTime s := ⟨hmode, hahead, hservice⟩
  clear hmode hahead hservice
  induction is generalizing s with
  | nil => exact List.forall_mem_nil _
  | cons i is ih =>
    obtain ⟨hireset, hreset⟩ := List.ne_and_not_mem_of_not_mem_cons hreset
    cases hexec : exec i s with
    | fault r | refused r => simp [completed, hexec]
    | next t =>
      rw [OverrunFreeModulo, completed_cons_of_next hexec, List.forall_mem_cons] at hfree
      obtain ⟨⟨hclr, -⟩, hrest⟩ := hfree
      rw [completed_cons_of_next hexec, List.forall_mem_cons]
      exact ⟨hs.cnt_eq_deadline hexec, ih t (exec_keeps_inv hinv hexec) hreset hrest
        (hs.step hinv.cfgGood hexec hireset.symm hclr)⟩

/-! ### The grid of the deadlines (R97, R120) -/

/-- `TickPeriod(f)` of R10 as a number of clock edges. -/
def edgesPerTick (c : Cfg) (f : Word) : Nat := c.clockFrequency / f.toNat / 100

/-- Where an execution of one run stands, counted from its `START`. -/
structure Grid where
  /-- the clock edges so far -/
  edges : Nat
  /-- the lateness of the tick that waits (log entry 24) -/
  late : Option Nat
  /-- the edge at which the count is the deadline in `DEADLINE` -/
  due : Nat
  /-- the ticks that have become pending without a `T1DL` yet: none or one -/
  owed : Nat

/-- The grid after a completed step: an edge counts, `T1DL` moves the deadline on by the period it sees. -/
def Grid.after (γ : Grid) (e : Completed) : Grid where
  edges := edgesAfter γ.edges e
  late := latenessAfter γ.late e
  due := if e.step = .t1dl then γ.due + edgesPerTick e.before.cfg e.before.outf else γ.due
  owed := if e.pends then γ.owed + 1 else if e.step = .t1dl then γ.owed - 1 else γ.owed

/-- The four situations of the flag in one run in which every tick that is served is served in time. -/
inductive GridPhase (γ : Grid) (s : State) : Prop where
  /-- the next tick is not due yet -/
  | ahead (hpend : s.pend = false) (hone : s.hstep ≠ 1) (htwo : s.hstep ≠ 2) (hlate : γ.late = none)
      (howed : γ.owed = 0) (hlt : γ.edges < γ.due) (hle : γ.due ≤ γ.edges + 2 ^ 31)
  /-- a tick has been pending for `l` edges, with its `T1DL` to come -/
  | waiting (l : Nat) (hpend : s.pend = true) (htwo : s.hstep ≠ 2) (hlate : γ.late = some l) (howed : γ.owed = 1)
      (hedges : γ.edges = γ.due + l)
  /-- the flag has risen in a Stopped engine, where nothing serves it -/
  | stopped (hpend : s.pend = true) (hrun : s.run = false) (hone : s.hstep ≠ 1) (htwo : s.hstep ≠ 2)
      (hlate : γ.late = none) (howed : γ.owed = 1)
  /-- a tick has been pending for `l` edges, and its `T1DL` has moved the deadline on -/
  | moved (l : Nat) (hpend : s.pend = true) (htwo : s.hstep = 2) (hlate : γ.late = some l) (howed : γ.owed = 0)
      (hedges : γ.edges + edgesPerTick s.cfg s.outf = γ.due + l)

/-- The state `s` is on the grid: the count and the deadline are where the edges and the periods put them. -/
structure OnGrid (γ : Grid) (s : State) : Prop where
  clockHigh : s.cfg.clockFrequency < 2 ^ 32
  outfLegal : s.cfg.legalFrequency s.outf
  aligned : s.deadline + BitVec.ofNat 32 γ.edges = s.cnt + BitVec.ofNat 32 γ.due
  phase : GridPhase γ s

/-- The part of R120's premise that speaks of one completed step. -/
def ServedAt (late : Option Nat) (e : Completed) : Prop :=
  (e.step = .tenter → inTime late e.before = true) ∧
    (e.step = .t2clr → ¬ deadlineReached e.before ∧ inTime late e.before = true)

section
variable {γ : Grid} {i : Instr} {s t : State}

theorem tickPeriod_toNat {c : Cfg} {f p : Word} (hc : c.clockFrequency < 2 ^ 32) (h : c.tickPeriod f = some p) :
    p.toNat = edgesPerTick c f := by
  obtain ⟨-, rfl⟩ := tickPeriod_some h
  exact period_toNat hc f

theorem lt_of_withinPeriod {n : Nat} (hc : s.cfg.clockFrequency < 2 ^ 32) (h : withinPeriod n s = true) :
    n < edgesPerTick s.cfg s.outf := by
  obtain ⟨p, hp, hlt⟩ := (withinPeriod_iff n s).1 h
  rwa [tickPeriod_toNat hc hp] at hlt

theorem edgesPerTick_le {c : Cfg} (hc : c.clockFrequency < 2 ^ 32) (f : Word) : edgesPerTick c f ≤ 2 ^ 31 := by
  have hmax := period_le c.clockFrequency f.toNat
  unfold edgesPerTick
  omega

/-! #### One step on the grid -/

/-- A step that is no edge and neither moves the deadline nor clears the flag leaves the grid as it is. -/
theorem Grid.after_of_quiet (hpend : t.pend = s.pend) (hclk : i ≠ .clk) (hdl : i ≠ .t1dl)
    (hlate : s.pend = false → γ.late = none) : γ.after ⟨i, s, t⟩ = γ := by
  obtain ⟨edges, late, due, owed⟩ := γ
  cases hp : s.pend with
  | true => simp [Grid.after, edgesAfter, latenessAfter, Completed.pends, hpend, hp, hclk, hdl]
  | false => simp_all [Grid.after, edgesAfter, latenessAfter, Completed.pends]

/-- An edge with the flag set counts, and adds to the lateness. -/
theorem Grid.after_clk_of_pend (hs : s.pend = true) (ht : t.pend = true) :
    γ.after ⟨.clk, s, t⟩ = { γ with edges := γ.edges + 1, late := γ.late.map (· + 1) } := by
  simp [Grid.after, edgesAfter, latenessAfter, Completed.pends, hs, ht]

/-- An edge that leaves the flag clear only counts. -/
theorem Grid.after_clk_of_clear (ht : t.pend = false) :
    γ.after ⟨.clk, s, t⟩ = { γ with edges := γ.edges + 1, late := none } := by
  simp [Grid.after, edgesAfter, latenessAfter, Completed.pends, ht]

/-- An edge that raises the flag makes one more tick pending, which waits if the engine is Running. -/
theorem Grid.after_clk_of_rise (hs : s.pend = false) (ht : t.pend = true) : γ.after ⟨.clk, s, t⟩ =
    { γ with edges := γ.edges + 1, late := if t.run then some 0 else none, owed := γ.owed + 1 } := by
  simp [Grid.after, edgesAfter, latenessAfter, Completed.pends, hs, ht]

theorem Grid.after_t1dl_of_pend (h : exec .t1dl s = .next t) (hs : s.pend = true) : γ.after ⟨.t1dl, s, t⟩ =
    { γ with due := γ.due + edgesPerTick s.cfg s.outf, owed := γ.owed - 1 } := by
  have ht : t.pend = true := (exec_keeps_pend h (by simp [writes])).trans hs
  simp [Grid.after, edgesAfter, latenessAfter, Completed.pends, hs, ht]

theorem Grid.after_t2clr (ht : t.pend = false) : γ.after ⟨.t2clr, s, t⟩ = { γ with late := none } := by
  simp [Grid.after, edgesAfter, latenessAfter, Completed.pends, ht]

theorem clockEdge_keeps_raised (h : s.pend = true) : (carrierEdge (tickTimerEdge s)).pend = true := by
  simp [comparedPend, h]

/-- The steps outside `CLK`, `T1DL` and `T2CLR` leave the flag and the grid alone. -/
theorem GridPhase.of_quiet (hs : GridPhase γ s) (h : exec i s = .next t) (hi : StaysInRun i) (hclk : i ≠ .clk)
    (hdl : i ≠ .t1dl) (hclr : i ≠ .t2clr) : GridPhase (γ.after ⟨i, s, t⟩) t := by
  have hpend := exec_keeps_pend_in_run h hi hclk hclr
  obtain ⟨hone, htwo⟩ := hstep_before_clear h
  have hone' (hne : i ≠ .tenter) (h1 : s.hstep ≠ 1) : t.hstep ≠ 1 := fun ht => (hone ht).elim hne h1
  have htwo' (h2 : s.hstep ≠ 2) : t.hstep ≠ 2 := fun ht => (htwo ht).elim hdl h2
  cases hs with
  | ahead hp h1 h2 hlate howed hlt hle =>
    rw [Grid.after_of_quiet hpend hclk hdl fun _ => hlate]
    have hne : i ≠ .tenter := by
      rintro rfl
      obtain ⟨-, hpend, -⟩ := exec_tenter_next h
      simp [hpend] at hp
    exact .ahead (hpend.trans hp) (hone' hne h1) (htwo' h2) hlate howed hlt hle
  | waiting l hp h2 hlate howed hedges =>
    rw [Grid.after_of_quiet hpend hclk hdl (by simp [hp])]
    exact .waiting l (hpend.trans hp) (htwo' h2) hlate howed hedges
  | stopped hp hrun h1 h2 hlate howed =>
    rw [Grid.after_of_quiet hpend hclk hdl (by simp [hp])]
    have hne : i ≠ .tenter := by
      rintro rfl
      obtain ⟨hrun', -⟩ := exec_tenter_next h
      simp [hrun'] at hrun
    exact .stopped (hpend.trans hp) (exec_keeps_stopped h hrun hi.2) (hone' hne h1) (htwo' h2) hlate howed
  | moved l hp h2 hlate howed hedges =>
    obtain rfl | rfl | ⟨rfl, h1⟩ | ⟨rfl, -⟩ | ⟨rfl, h1⟩ | ⟨rfl, h1⟩ :=
      enabled_in_handler_cases (by simp [h2]) (exec_next_enabled h)
    · exact absurd rfl hclk
    · exact absurd rfl hi.1
    · exact absurd rfl hdl
    · exact absurd rfl hclr
    · simp [h2] at h1
    · simp [h2] at h1

/-- `T1DL` serves the tick that waits: the deadline it was due at moves on by one period. -/
theorem GridPhase.t1dl (hs : GridPhase γ s) (h : exec .t1dl s = .next t) : GridPhase (γ.after ⟨.t1dl, s, t⟩) t := by
  obtain ⟨hstep, -, rfl⟩ := exec_t1dl_next h
  cases hs with
  | waiting l hp h2 hlate howed hedges =>
    rw [Grid.after_t1dl_of_pend h hp]
    refine .moved l hp rfl hlate (by simp [howed]) ?_
    simp only [setHstep_cfg, setHstep_outf]
    omega
  | ahead hp h1 | stopped hp hrun h1 => exact absurd hstep h1
  | moved l hp h2 => simp [h2] at hstep

/-- A `T2CLR` in time leaves the new deadline ahead, by less than one period. -/
theorem GridPhase.t2clr (hs : GridPhase γ s) (hc : s.cfg.clockFrequency < 2 ^ 32) (h : exec .t2clr s = .next t)
    (hserved : inTime γ.late s = true) : GridPhase (γ.after ⟨.t2clr, s, t⟩) t := by
  obtain ⟨hstep, rfl⟩ := exec_t2clr_next h
  cases hs with
  | moved l hp h2 hlate howed hedges =>
    rw [hlate, inTime_some] at hserved
    have hlt := lt_of_withinPeriod hc hserved
    have hmax := edgesPerTick_le hc s.outf
    rw [Grid.after_t2clr rfl]
    exact .ahead rfl (by simp) (by simp) rfl howed (by simp only; omega) (by simp only; omega)
  | ahead hp h1 h2 | waiting l hp h2 | stopped hp hrun h1 h2 => exact absurd hstep h2

/-- On the way to the deadline an edge raises the flag exactly if it is the edge the tick is due at (R102). -/
theorem clockEdge_pend_iff_due (hpend : s.pend = false) (hlt : γ.edges < γ.due) (hle : γ.due ≤ γ.edges + 2 ^ 31)
    (haligned : s.deadline + BitVec.ofNat 32 γ.edges = s.cnt + BitVec.ofNat 32 γ.due) :
    (carrierEdge (tickTimerEdge s)).pend = true ↔ γ.edges + 1 = γ.due := by
  have hdeadline : s.deadline = s.cnt + BitVec.ofNat 32 (γ.due - γ.edges) := by
    rw [← Nat.sub_add_cancel hlt.le, BitVec.ofNat_add, ← BitVec.add_assoc] at haligned
    exact (BitVec.add_left_inj _).1 haligned
  have hmatch := deadlineMatch_on_the_way s.cfg.matchMode s.cnt (j := 1) (k := γ.due - γ.edges) (by omega) le_rfl
    (by omega)
  rw [carrierEdge_pend, tickTimerEdge_pend, comparedPend, hpend, Bool.false_or, hdeadline]
  exact hmatch.trans (by omega)

/-- A clock edge: the tick becomes pending at the edge it is due at, or the lateness of a pending one grows. -/
theorem OnGrid.clk_phase (hs : OnGrid γ s) (h : exec .clk s = .next t) : GridPhase (γ.after ⟨.clk, s, t⟩) t := by
  obtain rfl := exec_clk_next h
  cases hs.phase with
  | ahead hp h1 h2 hlate howed hlt hle =>
    have hiff := clockEdge_pend_iff_due hp hlt hle hs.aligned
    cases ht : (carrierEdge (tickTimerEdge s)).pend with
    | false =>
      have hne : γ.edges + 1 ≠ γ.due := fun hdue => Bool.false_ne_true (ht.symm.trans (hiff.2 hdue))
      rw [Grid.after_clk_of_clear ht]
      exact .ahead ht (by simpa using h1) (by simpa using h2) rfl howed (by simp only; omega) (by simp only; omega)
    | true =>
      have hdue := hiff.1 ht
      rw [Grid.after_clk_of_rise hp ht, carrierEdge_run, tickTimerEdge_run]
      cases hrun : s.run with
      | true => exact .waiting 0 ht (by simpa using h2) rfl (by simp [howed]) hdue
      | false =>
        exact .stopped ht (by simpa using hrun) (by simpa using h1) (by simpa using h2) rfl (by simp [howed])
  | waiting l hp h2 hlate howed hedges =>
    have ht := clockEdge_keeps_raised hp
    rw [Grid.after_clk_of_pend hp ht]
    exact .waiting (l + 1) ht (by simpa using h2) (by simp [hlate]) howed (by simp only; omega)
  | stopped hp hrun h1 h2 hlate howed =>
    have ht := clockEdge_keeps_raised hp
    rw [Grid.after_clk_of_pend hp ht]
    exact .stopped ht (by simpa using hrun) (by simpa using h1) (by simpa using h2) (by simp [hlate]) howed
  | moved l hp h2 hlate howed hedges =>
    have ht := clockEdge_keeps_raised hp
    rw [Grid.after_clk_of_pend hp ht]
    refine .moved (l + 1) ht (by simpa using h2) (by simp [hlate]) howed ?_
    simp only [carrierEdge_cfg, carrierEdge_outf, tickTimerEdge_cfg, tickTimerEdge_outf]
    omega

/-- A step of one run keeps `OUTF` legal (R84). -/
theorem exec_keeps_outf_legal (hs : s.cfg.legalFrequency s.outf) (h : exec i s = .next t) (hi : StaysInRun i) :
    t.cfg.legalFrequency t.outf := by
  rw [exec_keeps_cfg h]
  by_cases hsetf : ∃ f, i = .setf f
  · obtain ⟨f, rfl⟩ := hsetf
    obtain ⟨hf, rfl⟩ := exec_setf_next h
    exact hf
  · rwa [exec_keeps_outf h hi (not_exists.1 hsetf)]

/-- The count and the deadline stay where the edges and the periods put them. -/
theorem OnGrid.aligned_after (hs : OnGrid γ s) (h : exec i s = .next t) (hi : StaysInRun i) :
    t.deadline + BitVec.ofNat 32 (γ.after ⟨i, s, t⟩).edges = t.cnt + BitVec.ofNat 32 (γ.after ⟨i, s, t⟩).due := by
  have haligned := hs.aligned
  by_cases hclk : i = .clk
  · subst hclk
    obtain rfl := exec_clk_next h
    simp only [Grid.after, edgesAfter, carrierEdge_deadline, carrierEdge_cnt, tickTimerEdge_deadline,
      tickTimerEdge_cnt, if_true, reduceCtorEq, if_false, BitVec.ofNat_add]
    bv_omega
  · by_cases hdl : i = .t1dl
    · subst hdl
      obtain ⟨-, -, rfl⟩ := exec_t1dl_next h
      simp only [Grid.after, edgesAfter, edgesPerTick, setHstep_deadline, setHstep_cnt, if_true, reduceCtorEq, if_false,
        BitVec.ofNat_add]
      rw [← BitVec.add_assoc, ← haligned, add_right_comm]
    · simpa [Grid.after, edgesAfter, hclk, hdl, exec_keeps_deadline h hi hdl, exec_keeps_cnt h hclk hi.1] using haligned

/-- A step of one run stays on the grid, where a `T2CLR` is in time. -/
theorem OnGrid.after (hs : OnGrid γ s) (h : exec i s = .next t) (hi : StaysInRun i)
    (hclear : i = .t2clr → inTime γ.late s = true) : OnGrid (γ.after ⟨i, s, t⟩) t where
  clockHigh := by rw [exec_keeps_cfg h]; exact hs.clockHigh
  outfLegal := exec_keeps_outf_legal hs.outfLegal h hi
  aligned := hs.aligned_after h hi
  phase := by
    by_cases hclk : i = .clk
    · subst hclk
      exact hs.clk_phase h
    · by_cases hdl : i = .t1dl
      · subst hdl
        exact hs.phase.t1dl h
      · by_cases hclr : i = .t2clr
        · subst hclr
          exact hs.phase.t2clr hs.clockHigh h (hclear rfl)
        · exact hs.phase.of_quiet h hi hclk hdl hclr

/-- The grid at a `START f`: no edge yet, and the first tick due one period later (R82). -/
def Grid.start (c : Cfg) (f : Word) : Grid where
  edges := 0
  late := none
  due := edgesPerTick c f
  owed := 0

theorem onGrid_of_start {f : Word} (hg : GoodCfg s.cfg) (h : exec (.start f) s = .next t) :
    OnGrid (.start s.cfg f) t := by
  have hthread : s.hstep = 0 := (cmdReady_iff s).1 (exec_next_enabled h)
  obtain ⟨-, -, hf, rfl⟩ := exec_start_next h
  have hmax := edgesPerTick_le hg.clockHigh f
  exact {
    clockHigh := hg.clockHigh
    outfLegal := hf
    aligned := BitVec.add_zero _
    phase := .ahead rfl (by simp [hthread]) (by simp [hthread]) rfl rfl (one_le_period hf.1 hf.2)
      (by simpa [Grid.start] using hmax) }

/-! #### What the grid tells -/

/-- A tick is owed while the flag is set, but not between its `T1DL` and its `T2CLR`. -/
theorem GridPhase.owed_eq (hs : GridPhase γ s) : γ.owed = if s.pend = true ∧ s.hstep ≠ 2 then 1 else 0 := by
  cases hs with
  | ahead hp h1 h2 hlate howed => simp [hp, howed]
  | waiting l hp h2 hlate howed | stopped hp hrun h1 h2 hlate howed => exact howed.trans (if_pos ⟨hp, h2⟩).symm
  | moved l hp h2 hlate howed => simp [h2, howed]

theorem GridPhase.owed_le_one (hs : GridPhase γ s) : γ.owed ≤ 1 := by
  rw [hs.owed_eq]
  split <;> omega

theorem GridPhase.owed_of_t1dl (hs : GridPhase γ s) (h : exec .t1dl s = .next t) : γ.owed = 1 := by
  obtain ⟨hstep, -, -⟩ := exec_t1dl_next h
  cases hs with
  | waiting l hp h2 hlate howed => exact howed
  | ahead hp h1 | stopped hp hrun h1 => exact absurd hstep h1
  | moved l hp h2 => simp [h2] at hstep

/-- With the flag clear the next tick is not due yet. -/
theorem GridPhase.lt_due (hs : GridPhase γ s) (hpend : s.pend = false) : γ.edges < γ.due := by
  cases hs with
  | ahead hp h1 h2 hlate howed hlt => exact hlt
  | waiting l hp | stopped hp | moved l hp => simp [hpend] at hp

/-- The flag rises at the edge the tick is due at, and that edge makes the count the deadline (R120). -/
theorem OnGrid.of_pends (hs : OnGrid γ s) (h : exec i s = .next t) (hrise : Completed.pends ⟨i, s, t⟩ = true) :
    i = .clk ∧ γ.owed = 0 ∧ γ.edges + 1 = γ.due ∧ t.cnt = t.deadline := by
  obtain ⟨hbefore, hafter⟩ := (pends_iff _).1 hrise
  obtain rfl := (pending_flag_has_one_setter i s t h).1 hbefore hafter
  obtain rfl := exec_clk_next h
  cases hs.phase with
  | waiting l hp | stopped hp | moved l hp => exact absurd (hp.symm.trans hbefore) Bool.noConfusion
  | ahead hp h1 h2 hlate howed hlt hle =>
    have hdue := (clockEdge_pend_iff_due hp hlt hle hs.aligned).1 hafter
    have haligned := hs.aligned
    rw [← hdue, BitVec.ofNat_add] at haligned
    refine ⟨rfl, howed, hdue, ?_⟩
    simp only [carrierEdge_cnt, carrierEdge_deadline, tickTimerEdge_cnt, tickTimerEdge_deadline]
    bv_omega

/-- A tick that a `TENTER` serves in time is within one period as the registers show it too (log entry 24). -/
theorem OnGrid.shown_in_time (hs : OnGrid γ s) (h : exec .tenter s = .next t) (htime : inTime γ.late s = true) :
    (s.cnt - s.deadline).toNat < edgesPerTick s.cfg s.outf := by
  obtain ⟨hrun, hpend, hthread, -⟩ := exec_tenter_next h
  cases hs.phase with
  | ahead hp => simp [hpend] at hp
  | stopped hp hrun' => simp [hrun] at hrun'
  | moved l hp h2 => simp [hthread] at h2
  | waiting l hp h2 hlate howed hedges =>
    rw [hlate, inTime_some] at htime
    have hlt := lt_of_withinPeriod hs.clockHigh htime
    have haligned := hs.aligned
    rw [hedges, BitVec.ofNat_add, BitVec.add_comm (BitVec.ofNat 32 γ.due), ← BitVec.add_assoc,
      BitVec.add_left_inj] at haligned
    rw [← haligned, BitVec.add_comm, BitVec.add_sub_cancel]
    exact (Nat.mod_le l _).trans_lt hlt

/-- In a Running engine with no tick left waiting too long, the tick after the ones that have become pending is not due
yet. -/
theorem OnGrid.lt_next (hs : OnGrid γ s) (hrun : s.run = true) (htime : inTime γ.late s = true) :
    γ.edges < γ.due + γ.owed * edgesPerTick s.cfg s.outf := by
  cases hs.phase with
  | ahead hp h1 h2 hlate howed hlt => omega
  | stopped hp hrun' => simp [hrun] at hrun'
  | waiting l hp h2 hlate howed hedges | moved l hp h2 hlate howed hedges =>
    rw [hlate, inTime_some] at htime
    have hlt := lt_of_withinPeriod hs.clockHigh htime
    rw [howed]
    omega

end

/-! #### A whole execution on the grid -/

/-- The completed steps of one run, each from a state on the grid, with the ticks it serves served in time. -/
inductive GridRun : Grid → State → List Completed → Prop where
  | nil {γ : Grid} {s : State} : OnGrid γ s → GridRun γ s []
  | cons {γ : Grid} {i : Instr} {s t : State} {es : List Completed} : OnGrid γ s → exec i s = .next t →
      ServedAt γ.late ⟨i, s, t⟩ → GridRun (γ.after ⟨i, s, t⟩) t es → GridRun γ s (⟨i, s, t⟩ :: es)

/-- The grid after the given completed steps. -/
def lastGrid (γ : Grid) (es : List Completed) : Grid := es.foldl Grid.after γ

/-- The tick periods that the `T1DL`s of the completed steps see, in clock edges. -/
def periodsSeen (c : Cfg) (es : List Completed) : List Nat :=
  (traceOf .t1dl (·.before.outf) es).map (edgesPerTick c)

theorem periodsSeen_cons (c : Cfg) (e : Completed) (es : List Completed) : periodsSeen c (e :: es) =
    if e.step = .t1dl then edgesPerTick c e.before.outf :: periodsSeen c es else periodsSeen c es := by
  unfold periodsSeen
  rw [traceOf_cons]
  split <;> rfl

section
variable {c : Cfg} {γ : Grid} {is : List Instr} {es : List Completed} {s t : State}

/-- An execution of one run that is served in time runs on the grid. -/
theorem gridRun_of_served (hs : OnGrid γ s) (hrun : ∀ i ∈ is, StaysInRun i)
    (hserved : ∀ p ∈ withLateness γ.late (completed is s), ServedAt p.1 p.2) (h : runInstrs is s = .next t) :
    GridRun γ s (completed is s) := by
  induction is generalizing γ s with
  | nil => exact .nil hs
  | cons i is ih =>
    obtain ⟨u, hu, h⟩ := runInstrs_cons_next.1 h
    obtain ⟨hi, hrest⟩ := List.forall_mem_cons.1 hrun
    rw [completed_cons_of_next hu, withLateness_cons, List.forall_mem_cons] at hserved
    rw [completed_cons_of_next hu]
    obtain ⟨hfirst, hserved⟩ := hserved
    exact .cons hs hu hfirst (ih (hs.after hu hi fun hclr => (hfirst.2 hclr).2) hrest hserved h)

namespace GridRun

theorem onGrid_last (h : GridRun γ s es) : OnGrid (lastGrid γ es) (lastState s es) := by
  induction h with
  | nil hs => exact hs
  | cons _ _ _ _ ih => exact ih

/-- Every completed step starts on the grid. -/
theorem onGrid_of_mem (h : GridRun γ s es) {e : Completed} (he : e ∈ es) :
    ∃ γ', OnGrid γ' e.before ∧ exec e.step e.before = .next e.after ∧ ServedAt γ'.late e := by
  induction h with
  | nil => cases he
  | cons hs hexec hserved _ ih =>
    obtain rfl | he := List.mem_cons.1 he
    · exact ⟨_, hs, hexec, hserved⟩
    · exact ih he

/-- The `k`-th tick becomes pending at the edge it is due at, the sum of the periods seen before it (R97, R120). -/
theorem pendingEdges_eq_due (h : GridRun γ s es) (hc : s.cfg = c) {k x : Nat}
    (hx : (pendingEdges γ.edges es)[k]? = some x) :
    x = γ.due + ((periodsSeen c es).take (k + γ.owed)).sum := by
  induction h generalizing k with
  | nil => cases hx
  | @cons γ i s t es hs hexec _ _ ih =>
    replace ih {k : Nat} := @ih ((exec_keeps_cfg hexec).trans hc) k
    rw [pendingEdges_cons] at hx
    rw [periodsSeen_cons]
    by_cases hp : Completed.pends ⟨i, s, t⟩ = true
    · obtain ⟨rfl, howed, hdue, -⟩ := hs.of_pends hexec hp
      rw [if_pos hp] at hx
      cases k with
      | zero =>
        cases hx
        simpa [edgesAfter, howed] using hdue
      | succ k => simpa [Grid.after, hp, howed] using ih hx
    · rw [if_neg hp] at hx
      replace ih := ih hx
      by_cases hdl : i = .t1dl
      · subst hdl
        have howed := hs.phase.owed_of_t1dl hexec
        simpa [Grid.after, hp, howed, hc, Nat.add_assoc] using ih
      · simpa [Grid.after, hp, hdl] using ih

/-- Every tick that becomes pending is followed by its `T1DL`, but for one that is still owed at the end. -/
theorem length_pendingEdges (h : GridRun γ s es) :
    (pendingEdges γ.edges es).length + γ.owed = (periodsSeen c es).length + (lastGrid γ es).owed := by
  induction h with
  | nil => rfl
  | @cons γ i s t es hs hexec _ _ ih =>
    rw [pendingEdges_cons, periodsSeen_cons, lastGrid, List.foldl_cons, ← lastGrid]
    by_cases hp : Completed.pends ⟨i, s, t⟩ = true
    · obtain ⟨rfl, howed, -, -⟩ := hs.of_pends hexec hp
      have hafter : (γ.after ⟨.clk, s, t⟩).owed = γ.owed + 1 := if_pos hp
      rw [if_pos hp, if_neg (by simp), ← ih, hafter, List.length_cons]
      exact Nat.add_right_comm _ 1 _
    · rw [if_neg hp]
      by_cases hdl : i = .t1dl
      · subst hdl
        have howed := hs.phase.owed_of_t1dl hexec
        have hafter : (γ.after ⟨.t1dl, s, t⟩).owed = γ.owed - 1 := (if_neg hp).trans (if_pos rfl)
        rw [if_pos rfl, List.length_cons, Nat.add_right_comm, ← ih, hafter, howed]
        rfl
      · have hafter : (γ.after ⟨i, s, t⟩).owed = γ.owed := (if_neg hp).trans (if_neg hdl)
        rw [if_neg hdl, ← ih, hafter]
        rfl

end GridRun

theorem lastGrid_late (γ : Grid) (es : List Completed) : (lastGrid γ es).late = lastLateness γ.late es := by
  induction es generalizing γ with
  | nil => rfl
  | cons e es ih => exact ih _

theorem edgesAfter_add_count (n : Nat) (e : Completed) (es : List Completed) :
    edgesAfter n e + (es.map Completed.step).count .clk = n + ((e :: es).map Completed.step).count .clk := by
  rw [List.map_cons, List.count_cons, edgesAfter]
  simp only [beq_iff_eq]
  split <;> omega

theorem lastGrid_edges (γ : Grid) (es : List Completed) :
    (lastGrid γ es).edges = γ.edges + (es.map Completed.step).count .clk := by
  induction es generalizing γ with
  | nil => rfl
  | cons e es ih => exact (ih (γ.after e)).trans (edgesAfter_add_count _ e es)

theorem GridRun.lastGrid_due (h : GridRun γ s es) (hc : s.cfg = c) :
    (lastGrid γ es).due = γ.due + (periodsSeen c es).sum := by
  induction h with
  | nil => rfl
  | @cons γ i s t es hs hexec _ _ ih =>
    rw [lastGrid, List.foldl_cons, ← lastGrid, ih ((exec_keeps_cfg hexec).trans hc), periodsSeen_cons]
    by_cases hdl : i = .t1dl
    · simp [Grid.after, hdl, hc, Nat.add_assoc]
    · simp [Grid.after, hdl]

/-- No tick becomes pending at an edge that has not been. -/
theorem pendingEdges_le {n x : Nat} (h : x ∈ pendingEdges n es) : x ≤ n + (es.map Completed.step).count .clk := by
  induction es generalizing n with
  | nil => cases h
  | cons e es ih =>
    rw [← edgesAfter_add_count]
    rw [pendingEdges_cons] at h
    split at h
    · obtain rfl | h := List.mem_cons.1 h
      · exact Nat.le_add_right _ _
      · exact ih h
    · exact ih h

/-- A register that every step of a kind keeps has its value through an execution of such steps. -/
theorem runInstrs_keeps {α : Type} {get : State → α} {P : Instr → Prop}
    (hkeep : ∀ i s t, P i → exec i s = .next t → get t = get s) (hP : ∀ i ∈ is, P i)
    (h : runInstrs is s = .next t) : get t = get s := by
  induction is generalizing s with
  | nil => cases h; rfl
  | cons i is ih =>
    obtain ⟨u, hu, h⟩ := runInstrs_cons_next.1 h
    obtain ⟨hi, hrest⟩ := List.forall_mem_cons.1 hP
    exact (ih hrest h).trans (hkeep i s u hi hu)

theorem keepsRunning_of_staysInRun {i : Instr} (hi : StaysInRun i) (hstop : i ≠ .stop) : keepsRunning i = true := by
  obtain ⟨hreset, hstart⟩ := hi
  cases i with
  | reset => exact absurd rfl hreset
  | start f => exact absurd rfl (hstart f)
  | stop => exact absurd rfl hstop
  | nop | csetup | setf f | tenter | t1dl | t2clr | t3wr | t4adv | clk => rfl

end

/-! #### The run after a `START` -/

/-- An execution after a `START f` as R120 speaks of it: in one run, served in time, from `t` to `u`. -/
structure TimelyRun (is : List Instr) (f : Word) (s t u : State) : Prop where
  cfgGood : GoodCfg s.cfg
  start : exec (.start f) s = .next t
  inRun : ∀ i ∈ is, StaysInRun i
  served : ServedInTime is t
  runs : runInstrs is t = .next u

/-- The edge, counted from the `START f`, at which the tick is due that comes after `k` of the ticks with the
frequencies `fs` (R97). -/
def dueEdge (c : Cfg) (f : Word) (fs : List Word) (k : Nat) : Nat :=
  edgesPerTick c f + ((fs.take k).map (edgesPerTick c)).sum

theorem dueEdge_succ {c : Cfg} {f g : Word} {fs : List Word} {k : Nat} (h : fs[k]? = some g) :
    dueEdge c f fs (k + 1) = dueEdge c f fs k + edgesPerTick c g := by
  simp [dueEdge, List.take_add_one, h, Nat.add_assoc]

theorem dueEdge_replicate {c : Cfg} {f : Word} {n k : Nat} (h : k ≤ n) :
    dueEdge c f (List.replicate n f) k = (k + 1) * edgesPerTick c f := by
  rw [dueEdge, List.take_replicate, Nat.min_eq_left h, List.map_replicate, List.sum_replicate, smul_eq_mul,
    Nat.succ_mul, Nat.add_comm]

namespace TimelyRun

variable {is : List Instr} {f : Word} {s t u : State} {k n m : Nat}

theorem cfg_started (h : TimelyRun is f s t u) : t.cfg = s.cfg := exec_keeps_cfg h.start

theorem outf_started (h : TimelyRun is f s t u) : t.outf = f := by
  obtain ⟨-, -, -, rfl⟩ := exec_start_next h.start
  rfl

theorem run_started (h : TimelyRun is f s t u) : t.run = true := by
  obtain ⟨-, -, -, rfl⟩ := exec_start_next h.start
  rfl

theorem latenessAtStart_started (h : TimelyRun is f s t u) : latenessAtStart t = none := by
  obtain ⟨-, -, -, rfl⟩ := exec_start_next h.start
  rfl

theorem gridRun (h : TimelyRun is f s t u) : GridRun (.start s.cfg f) t (completed is t) := by
  have hserved := h.served
  rw [ServedInTime, h.latenessAtStart_started] at hserved
  exact gridRun_of_served (onGrid_of_start h.cfgGood h.start) h.inRun hserved h.runs

/-- The grid where the execution ends. -/
def gridAtEnd (is : List Instr) (f : Word) (s t : State) : Grid := lastGrid (.start s.cfg f) (completed is t)

theorem onGrid_last (h : TimelyRun is f s t u) : OnGrid (gridAtEnd is f s t) u := by
  have hlast := h.gridRun.onGrid_last
  rwa [lastState_completed h.runs] at hlast

theorem cfg_last (h : TimelyRun is f s t u) : u.cfg = s.cfg :=
  (runInstrs_keeps (fun _ _ _ _ => exec_keeps_cfg) h.inRun h.runs).trans h.cfg_started

theorem gridAtEnd_edges (h : TimelyRun is f s t u) : (gridAtEnd is f s t).edges = is.count .clk := by
  rw [gridAtEnd, lastGrid_edges, map_step_completed h.runs]
  exact Nat.zero_add _

theorem gridAtEnd_due (h : TimelyRun is f s t u) :
    (gridAtEnd is f s t).due = dueEdge s.cfg f (frequencyTrace is t) (frequencyTrace is t).length := by
  rw [dueEdge, List.take_length]
  exact h.gridRun.lastGrid_due h.cfg_started

theorem length_pendingTrace (h : TimelyRun is f s t u) :
    (pendingTrace is t).length = (frequencyTrace is t).length + (gridAtEnd is f s t).owed := by
  have hlength := h.gridRun.length_pendingEdges (c := s.cfg)
  rwa [periodsSeen, List.length_map] at hlength

theorem pendingTrace_eq_due (h : TimelyRun is f s t u) (hn : (pendingTrace is t)[k]? = some n) :
    n = dueEdge s.cfg f (frequencyTrace is t) k := by
  have hdue := h.gridRun.pendingEdges_eq_due h.cfg_started hn
  rwa [periodsSeen, ← List.map_take] at hdue

/-- A tick becomes pending only after the `T1DL`s of all ticks before it. -/
theorem le_of_pendingTrace (h : TimelyRun is f s t u) (hn : (pendingTrace is t)[k]? = some n) :
    k ≤ (frequencyTrace is t).length := by
  obtain ⟨hk, -⟩ := List.getElem?_eq_some_iff.1 hn
  have hlength := h.length_pendingTrace
  have howed := h.onGrid_last.phase.owed_le_one
  omega

theorem pendingTrace_spacing (h : TimelyRun is f s t u) (hn : (pendingTrace is t)[k]? = some n)
    (hm : (pendingTrace is t)[k + 1]? = some m) :
    ∃ g, (frequencyTrace is t)[k]? = some g ∧ m = n + edgesPerTick s.cfg g := by
  have hk : k < (frequencyTrace is t).length := h.le_of_pendingTrace hm
  refine ⟨_, List.getElem?_eq_getElem hk, ?_⟩
  rw [h.pendingTrace_eq_due hn, h.pendingTrace_eq_due hm, dueEdge_succ (List.getElem?_eq_getElem hk)]

theorem cnt_eq_deadline_of_pends (h : TimelyRun is f s t u) {e : Completed} (he : e ∈ completed is t)
    (hp : e.pends = true) : e.after.cnt = e.after.deadline := by
  obtain ⟨γ, hγ, hexec, -⟩ := h.gridRun.onGrid_of_mem he
  obtain ⟨-, -, -, hcnt⟩ := hγ.of_pends hexec hp
  exact hcnt

theorem none_left_out_of_clear (h : TimelyRun is f s t u) (hpend : u.pend = false) :
    (pendingTrace is t).length = (frequencyTrace is t).length ∧
      is.count .clk < dueEdge s.cfg f (frequencyTrace is t) (frequencyTrace is t).length := by
  have hphase := h.onGrid_last.phase
  rw [h.length_pendingTrace, hphase.owed_eq, ← h.gridAtEnd_edges, ← h.gridAtEnd_due]
  exact ⟨by simp [hpend], hphase.lt_due hpend⟩

theorem overrunFreeModulo (h : TimelyRun is f s t u) : OverrunFreeModulo is t := by
  intro e he
  obtain ⟨γ, hγ, hexec, htenter, hclr⟩ := h.gridRun.onGrid_of_mem he
  refine ⟨fun hstep => (hclr hstep).1, fun hstep p hp => ?_⟩
  rw [tickPeriod_toNat hγ.clockHigh hp]
  exact hγ.shown_in_time (hstep ▸ hexec) (htenter hstep)

/-! With a constant frequency. -/

theorem frequencyTrace_eq (h : TimelyRun is f s t u) (hsetf : ∀ g, Instr.setf g ∉ is) :
    frequencyTrace is t = List.replicate (frequencyTrace is t).length f := by
  have hall := frequencyTrace_eq_replicate h.inRun hsetf h.runs
  rw [h.outf_started] at hall
  rw [hall, List.length_replicate]

theorem dueEdge_of_constant (h : TimelyRun is f s t u) (hsetf : ∀ g, Instr.setf g ∉ is)
    (hk : k ≤ (frequencyTrace is t).length) :
    dueEdge s.cfg f (frequencyTrace is t) k = (k + 1) * edgesPerTick s.cfg f := by
  rw [h.frequencyTrace_eq hsetf]
  exact dueEdge_replicate hk

theorem pendingTrace_of_constant (h : TimelyRun is f s t u) (hsetf : ∀ g, Instr.setf g ∉ is)
    (hn : (pendingTrace is t)[k]? = some n) : n = (k + 1) * edgesPerTick s.cfg f := by
  rw [h.pendingTrace_eq_due hn, h.dueEdge_of_constant hsetf (h.le_of_pendingTrace hn)]

/-- Every tick that has become pending had its period before. -/
theorem length_mul_period_le (h : TimelyRun is f s t u) (hsetf : ∀ g, Instr.setf g ∉ is) :
    (pendingTrace is t).length * edgesPerTick s.cfg f ≤ is.count .clk := by
  cases hlength : (pendingTrace is t).length with
  | zero => simp
  | succ k =>
    have hk : k < (pendingTrace is t).length := by omega
    rw [← h.pendingTrace_of_constant hsetf (List.getElem?_eq_getElem hk)]
    have hle := pendingEdges_le (List.getElem_mem hk)
    rwa [map_step_completed h.runs, Nat.zero_add] at hle

/-! Where the execution is overrun-free and has no `STOP`. -/

/-- The tick after the ones that have become pending is not due yet. -/
theorem count_clk_lt_next (h : TimelyRun is f s t u) (hfree : OverrunFree is t) (hstop : Instr.stop ∉ is) :
    is.count .clk < dueEdge s.cfg f (frequencyTrace is t) (frequencyTrace is t).length +
      (gridAtEnd is f s t).owed * edgesPerTick s.cfg u.outf := by
  have hkeeps : ∀ i ∈ is, keepsRunning i = true :=
    fun i hi => keepsRunning_of_staysInRun (h.inRun i hi) fun hstop' => hstop (hstop' ▸ hi)
  have hrun : u.run = true :=
    (runInstrs_keeps (fun _ _ _ hi hexec => exec_keeps_run hexec hi) hkeeps h.runs).trans h.run_started
  obtain ⟨-, -, htime⟩ := hfree
  rw [h.latenessAtStart_started, lastState_completed h.runs] at htime
  have hlate : (gridAtEnd is f s t).late = lastLateness none (completed is t) := lastGrid_late _ _
  rw [← h.gridAtEnd_edges, ← h.gridAtEnd_due, ← h.cfg_last]
  exact h.onGrid_last.lt_next hrun (hlate ▸ htime)

theorem length_eq_whole_periods (h : TimelyRun is f s t u) (hfree : OverrunFree is t) (hstop : Instr.stop ∉ is)
    (hsetf : ∀ g, Instr.setf g ∉ is) : (pendingTrace is t).length = is.count .clk / edgesPerTick s.cfg f := by
  have houtf : u.outf = f := by
    refine (runInstrs_keeps (P := fun i => StaysInRun i ∧ ∀ g, i ≠ .setf g)
      (fun _ _ _ hi hexec => exec_keeps_outf hexec hi.1 hi.2) (fun i hi => ⟨h.inRun i hi, fun g hg => ?_⟩)
      h.runs).trans h.outf_started
    exact hsetf g (hg ▸ hi)
  have hlt := h.count_clk_lt_next hfree hstop
  rw [houtf, h.dueEdge_of_constant hsetf le_rfl, ← Nat.add_mul, Nat.add_right_comm, ← h.length_pendingTrace] at hlt
  exact (Nat.div_eq_of_lt_le (h.length_mul_period_le hsetf) hlt).symm

end TimelyRun

/-- The rate of the ticks: the period truncates (R10, R120). -/
theorem edgesPerTick_mul_le (c : Cfg) (f : Word) : edgesPerTick c f * (100 * f.toNat) ≤ c.clockFrequency ∧
    (edgesPerTick c f * (100 * f.toNat) = c.clockFrequency ↔ 100 * f.toNat ∣ c.clockFrequency) := by
  rw [edgesPerTick, div_div_hundred]
  exact ⟨Nat.div_mul_le_self _ _, ⟨fun h => ⟨_, (Nat.mul_comm _ _ |>.trans h).symm⟩, Nat.div_mul_cancel⟩⟩

/-- Settles O56: the execution runs on the grid of its deadlines, where each clause is read off. -/
theorem overrun_free_ticks_are_one_period_apart : Obligations.Overrun_free_ticks_are_one_period_apart := by
  intro is s t u f hg hstart hreset hnostart hserved hruns
  have h : TimelyRun is f s t u := ⟨hg, hstart, staysInRun_of_not_mem hreset hnostart, hserved, hruns⟩
  refine ⟨fun k n => h.pendingTrace_eq_due, fun k n m => h.pendingTrace_spacing, fun e => h.cnt_eq_deadline_of_pends,
    h.none_left_out_of_clear, fun hsetf k n => h.pendingTrace_of_constant hsetf, fun hfree hstop => ⟨?_, ?_⟩,
    edgesPerTick_mul_le s.cfg f, h.overrunFreeModulo⟩
  · have hlt := h.count_clk_lt_next hfree hstop
    rw [h.onGrid_last.phase.owed_eq, ite_mul, Nat.one_mul, Nat.zero_mul] at hlt
    exact hlt
  · exact h.length_eq_whole_periods hfree hstop

end Sys2Proof.Machine

/-! PROOFS. The reset statements: the event (R140, R40), the block right after it (R141), and the states no run
reaches (R147). -/

namespace Sys2Proof.Machine

/-- Settles O8: the state after `RESET` is the drawn reset registers, with only the draw count changed beside them. -/
theorem reset_event_sets_every_register : Obligations.Reset_event_sets_every_register :=
  fun _ => ⟨_, _, _, exec_reset, countReset_same _⟩

/-- Right after reset the state is its own reset, for the values drawn: resetting changes no part of the environment. -/
theorem AfterReset.eq_resetRegisters {s : State} (h : AfterReset s) : ∃ c d, s = resetRegisters c d s := by
  obtain ⟨-, c, d, hsame⟩ := h
  exact ⟨c, d, hsame⟩

/-- Settles O10: `State.reset` has the reset values over the default `cfg`; in every such state the registers and the
lines are those of the reset values, and one clock edge counts one up. -/
theorem after_reset_the_block_waits : Obligations.After_reset_the_block_waits := by
  refine ⟨⟨default_cfg_is_good.1, State.reset.cnt, State.reset.deadline, rfl⟩, fun s hs => ?_⟩
  have hcount : ∀ t, exec .clk s = .next t → t.cnt = s.cnt + 1 := fun t h =>
    (counter_is_free_running .clk s t h nofun).trans (if_pos rfl)
  obtain ⟨c, d, heq⟩ := hs.eq_resetRegisters
  rw [heq] at hcount ⊢
  exact ⟨rfl, rfl, rfl, rfl, rfl, rfl, rfl, rfl, rfl, rfl, rfl, rfl, rfl, rfl, hcount⟩

/-- With `HSTEP` above 4 no micro-step is enabled, and the commands and `TENTER` are held off as in every handler
context (R70, R76; log entry 15). -/
theorem eq_clk_or_reset_of_enabled {i : Instr} {s : State} (hhigh : 5 ≤ s.hstep.toNat) (he : enabled i s = true) :
    i = .clk ∨ i = .reset := by
  have hne : ∀ k : HandlerStep, k.toNat < 5 → s.hstep ≠ k := by
    rintro k hk rfl
    omega
  obtain hi | hi | ⟨-, hk⟩ | ⟨-, hk⟩ | ⟨-, hk⟩ | ⟨-, hk⟩ := enabled_in_handler_cases (hne 0 (by decide)) he
  · exact .inl hi
  · exact .inr hi
  · exact absurd hk (hne 1 (by decide))
  · exact absurd hk (hne 2 (by decide))
  · exact absurd hk (hne 3 (by decide))
  · exact absurd hk (hne 4 (by decide))

/-- Settles O54: `T1DL` answers with the frequency check on `OUTF`, which finds it above `F_MAX` before the interval is
used. -/
theorem unreachable_states : Obligations.Unreachable_states :=
  ⟨fun _ _ hstep hhigh =>
    (whenEnabled_of_enabled (enabled_t1dl_iff.2 hstep) _).trans (withLegalFrequency_high _ hhigh),
    fun _ _ => eq_clk_or_reset_of_enabled⟩

end Sys2Proof.Machine
